-- ==== Sys2Proof/Word.lean ====
section
/-! DEFINITION. The words of the block and their plainest arithmetic: a byte of operand memory (20_memory.md R70),
the 32-bit command and bus word (30_encoding.md R100), register numbers and immediates (R100), and the narrowing
to 64 and 128 bits that the limb arithmetic of 41_field.md and 42_scalar.md is written with (00_scope.md R7). -/
namespace Sys2Proof

/-- A byte of operand memory, 8 bits (20_memory.md R70). -/
abbrev Byte := BitVec 8

/-- A command word and a bus word, 32 bits (30_encoding.md R100, 10_state.md R43). -/
abbrev Word := BitVec 32

/-- A 6-bit register number of a command word (30_encoding.md R100). -/
abbrev RegNo := BitVec 6

/-- The 12-bit unsigned immediate of a command word (30_encoding.md R100, R102). -/
abbrev Imm := BitVec 12

/-- The content of a scalar register: 256 bits (10_state.md R34). -/
abbrev Scalar := BitVec 256

/-- Narrowing to an unsigned 64-bit variable (00_scope.md R7). -/
def u64 (n : Nat) : Nat := n % 2 ^ 64

/-- Narrowing to an unsigned 128-bit variable (41_field.md section 2, 42_scalar.md section 2). -/
def u128 (n : Nat) : Nat := n % 2 ^ 128

/-- Subtraction modulo 2^64, the spec's `−64` (00_scope.md R7). -/
def sub64 (x y : Nat) : Nat := (x + 2 ^ 64 - y % 2 ^ 64) % 2 ^ 64

end Sys2Proof
end

