-- ==== Sys2Proof/Config.lean ====
section
/-! DEFINITION. The instance parameters of the block: the rows of 00_scope.md R6 whose kind is "argument".
The model takes them as data: every state carries the parameters of its instance (Machine/State.lean), no
command and no reset changes them, and so a statement about every state is about every instance.
There is no free value here: 70_reset_and_hazards.md R448 leaves no result of a command undefined. -/
namespace Sys2Proof

/-- The parameters of an instance (00_scope.md R6, 93_implementation_defined.md section 2). -/
structure Params where
  /-- `NF`, the number of field registers. -/
  nf : Nat
  /-- `NS`, the number of scalar registers. -/
  ns : Nat
  /-- `NP`, the number of point registers. -/
  np : Nat
  /-- `NC`, the number of choice bits. -/
  nc : Nat
  /-- `NDG`, the number of digit buffers. -/
  ndg : Nat
  /-- `NSLOT`, the number of 32-byte slots of operand memory. -/
  nslot : Nat
  /-- `MSM_CAP`, the capacity of the multiscalar pair list. -/
  msmCap : Nat
  /-- `DECOMP_REJECT_NEG_ZERO`, whether decompression rejects `x = 0` with sign bit 1. -/
  rejectNegZero : Bool
deriving DecidableEq, Repr

/-- The instance this spec fixes: the "value" column of 00_scope.md R6. -/
def Params.default : Params where
  nf := 16
  ns := 8
  np := 8
  nc := 8
  ndg := 2
  nslot := 64
  msmCap := 64
  rejectNegZero := false

/-- The ranges 00_scope.md R6 gives the arguments. -/
abbrev Params.Legal (c : Params) : Prop :=
  (1 ≤ c.nf ∧ c.nf ≤ 64) ∧ (1 ≤ c.ns ∧ c.ns ≤ 64) ∧ (1 ≤ c.np ∧ c.np ≤ 64) ∧ (1 ≤ c.nc ∧ c.nc ≤ 8) ∧
    (1 ≤ c.ndg ∧ c.ndg ≤ 64) ∧ (8 ≤ c.nslot ∧ c.nslot ≤ 255) ∧ (1 ≤ c.msmCap ∧ c.msmCap ≤ 255)

end Sys2Proof
end

