-- ==== Sys2Proof/Syntax.lean ====
section
/-! DEFINITION. The commands: one constructor per row of the command table 30_encoding.md R107, its fields the
row's fields in the row's order (R106), and the fault codes of 60_exceptions.md R401 by name. -/
namespace Sys2Proof

/-- The causes a command faults for (60_exceptions.md R401). -/
inductive FaultCode where
  /-- Code 1: `op` is not one of the 77 opcodes (R402). -/
  | illegalOpcode
  /-- Code 2: a non-zero unused field, a register number or a non-slot immediate out of range, or FE_POW22501 with
  `d = a` (R402). -/
  | illegalField
  /-- Code 3: a slot immediate that runs past the operand memory (R403). -/
  | slotRange
  /-- Code 4: a source register is EMPTY (R404). -/
  | unwritten
  /-- Code 5: a source point register holds a representation the command does not accept (R405). -/
  | wrongType
  /-- Code 6: MSM_PUSH on a full pair list (R406). -/
  | msmFull
  /-- Code 7: MSM_RUN on an empty pair list (R407). -/
  | msmEmpty
  /-- Code 8: MTOE on a `u` that gives no point (R409). -/
  | elligator
deriving DecidableEq, Repr

/-- A command: one constructor per row of 30_encoding.md R107. -/
inductive Instr where
  /-- NOP, opcode 0x01 (R131). -/
  | nop
  /-- CH_SET, opcode 0x08 (R133): `d` C dest, `imm` immediate. -/
  | chSet (d : RegNo) (imm : Imm)
  /-- CH_NOT, opcode 0x09 (R134): `d` C dest, `a` C src. -/
  | chNot (d a : RegNo)
  /-- CH_AND, opcode 0x0A (R135): `d` C dest, `a` C src, `b` C src. -/
  | chAnd (d a b : RegNo)
  /-- CH_OR, opcode 0x0B (R136): `d` C dest, `a` C src, `b` C src. -/
  | chOr (d a b : RegNo)
  /-- CH_XOR, opcode 0x0C (R137): `d` C dest, `a` C src, `b` C src. -/
  | chXor (d a b : RegNo)
  /-- FE_LD, opcode 0x10 (R170): `d` F dest, `imm` slot number, 1 slot. -/
  | feLd (d : RegNo) (imm : Imm)
  /-- FE_ST, opcode 0x11 (R171): `a` F src, `imm` slot number, 1 slot. -/
  | feSt (a : RegNo) (imm : Imm)
  /-- FE_CONST, opcode 0x12 (R172): `d` F dest, `imm` constant id. -/
  | feConst (d : RegNo) (imm : Imm)
  /-- FE_MOV, opcode 0x13 (R173): `d` F dest, `a` F src. -/
  | feMov (d a : RegNo)
  /-- FE_ADD, opcode 0x14 (R174): `d` F dest, `a` F src, `b` F src. -/
  | feAdd (d a b : RegNo)
  /-- FE_SUB, opcode 0x15 (R175): `d` F dest, `a` F src, `b` F src. -/
  | feSub (d a b : RegNo)
  /-- FE_NEG, opcode 0x16 (R176): `d` F dest, `a` F src. -/
  | feNeg (d a : RegNo)
  /-- FE_MUL, opcode 0x17 (R177): `d` F dest, `a` F src, `b` F src. -/
  | feMul (d a b : RegNo)
  /-- FE_SQ, opcode 0x18 (R178): `d` F dest, `a` F src. -/
  | feSq (d a : RegNo)
  /-- FE_SQ2, opcode 0x19 (R179): `d` F dest, `a` F src. -/
  | feSq2 (d a : RegNo)
  /-- FE_POW2K, opcode 0x1A (R180): `d` F dest, `a` F src, `imm` squaring count. -/
  | fePow2k (d a : RegNo) (imm : Imm)
  /-- FE_INV, opcode 0x1B (R181): `d` F dest, `a` F src. -/
  | feInv (d a : RegNo)
  /-- FE_POWP58, opcode 0x1C (R182): `d` F dest, `a` F src. -/
  | fePowp58 (d a : RegNo)
  /-- FE_POW22501, opcode 0x1D (R183): `d` F dest, `a` F dest, `b` F src. -/
  | fePow22501 (d a b : RegNo)
  /-- FE_SQRTRI, opcode 0x1E (R184): `d` F dest, `a` F src, `b` F src, `c` C dest. -/
  | feSqrtri (d a b c : RegNo)
  /-- FE_RED, opcode 0x1F (R185): `d` F dest, `a` F src. -/
  | feRed (d a : RegNo)
  /-- FE_CSEL, opcode 0x20 (R186): `d` F dest, `a` F src, `b` F src, `c` C src. -/
  | feCsel (d a b c : RegNo)
  /-- FE_CNEG, opcode 0x21 (R187): `d` F src+dest, `c` C src. -/
  | feCneg (d c : RegNo)
  /-- FE_CASSIGN, opcode 0x22 (R188): `d` F src+dest, `a` F src, `c` C src. -/
  | feCassign (d a c : RegNo)
  /-- FE_EQ, opcode 0x23 (R189): `d` C dest, `a` F src, `b` F src. -/
  | feEq (d a b : RegNo)
  /-- FE_ISNEG, opcode 0x24 (R190): `d` C dest, `a` F src. -/
  | feIsneg (d a : RegNo)
  /-- FE_ISZERO, opcode 0x25 (R191): `d` C dest, `a` F src. -/
  | feIszero (d a : RegNo)
  /-- SC_LD, opcode 0x30 (R230): `d` S dest, `imm` slot number, 1 slot. -/
  | scLd (d : RegNo) (imm : Imm)
  /-- SC_LDW, opcode 0x31 (R231): `d` S dest, `imm` slot number, 2 slots. -/
  | scLdw (d : RegNo) (imm : Imm)
  /-- SC_ST, opcode 0x32 (R232): `a` S src, `imm` slot number, 1 slot. -/
  | scSt (a : RegNo) (imm : Imm)
  /-- SC_MOV, opcode 0x33 (R233): `d` S dest, `a` S src. -/
  | scMov (d a : RegNo)
  /-- SC_ADD, opcode 0x34 (R234): `d` S dest, `a` S src, `b` S src. -/
  | scAdd (d a b : RegNo)
  /-- SC_SUB, opcode 0x35 (R235): `d` S dest, `a` S src, `b` S src. -/
  | scSub (d a b : RegNo)
  /-- SC_MUL, opcode 0x36 (R236): `d` S dest, `a` S src, `b` S src. -/
  | scMul (d a b : RegNo)
  /-- SC_NEG, opcode 0x37 (R237): `d` S dest, `a` S src. -/
  | scNeg (d a : RegNo)
  /-- SC_RED, opcode 0x38 (R238): `d` S dest, `a` S src. -/
  | scRed (d a : RegNo)
  /-- SC_ISCANON, opcode 0x39 (R239): `d` C dest, `a` S src. -/
  | scIscanon (d a : RegNo)
  /-- SC_MMUL, opcode 0x3A (R240): `d` S dest, `a` S src, `b` S src. -/
  | scMmul (d a b : RegNo)
  /-- SC_TOMONT, opcode 0x3B (R241): `d` S dest, `a` S src. -/
  | scTomont (d a : RegNo)
  /-- SC_FROMMONT, opcode 0x3C (R242): `d` S dest, `a` S src. -/
  | scFrommont (d a : RegNo)
  /-- SC_RADIX16, opcode 0x40 (R243): `d` DG dest, `a` S src. -/
  | scRadix16 (d a : RegNo)
  /-- SC_RADIX2W, opcode 0x41 (R244): `d` DG dest, `a` S src, `imm` window width. -/
  | scRadix2w (d a : RegNo) (imm : Imm)
  /-- SC_NAF, opcode 0x42 (R245): `d` DG dest, `a` S src, `imm` window width. -/
  | scNaf (d a : RegNo) (imm : Imm)
  /-- DG_ST, opcode 0x43 (R246): `a` DG src, `imm` slot number, 8 slots. -/
  | dgSt (a : RegNo) (imm : Imm)
  /-- PT_IDENT, opcode 0x50 (R270): `d` P dest. -/
  | ptIdent (d : RegNo)
  /-- PT_BASE, opcode 0x51 (R271): `d` P dest. -/
  | ptBase (d : RegNo)
  /-- PT_MOV, opcode 0x52 (R272): `d` P dest, `a` P src. -/
  | ptMov (d a : RegNo)
  /-- PT_DECOMP, opcode 0x53 (R273): `d` P dest, `a` C dest, `imm` slot number, 1 slot. -/
  | ptDecomp (d a : RegNo) (imm : Imm)
  /-- PT_COMP, opcode 0x54 (R274): `a` P src, `imm` slot number, 1 slot. -/
  | ptComp (a : RegNo) (imm : Imm)
  /-- PT_E2P, opcode 0x55 (R275): `d` P dest, `a` P src. -/
  | ptE2p (d a : RegNo)
  /-- PT_E2PN, opcode 0x56 (R276): `d` P dest, `a` P src. -/
  | ptE2pn (d a : RegNo)
  /-- PT_E2AN, opcode 0x57 (R277): `d` P dest, `a` P src. -/
  | ptE2an (d a : RegNo)
  /-- PT_P2E, opcode 0x58 (R278): `d` P dest, `a` P src. -/
  | ptP2e (d a : RegNo)
  /-- PT_C2P, opcode 0x59 (R279): `d` P dest, `a` P src. -/
  | ptC2p (d a : RegNo)
  /-- PT_C2E, opcode 0x5A (R280): `d` P dest, `a` P src. -/
  | ptC2e (d a : RegNo)
  /-- PT_DBL, opcode 0x5B (R281): `d` P dest, `a` P src. -/
  | ptDbl (d a : RegNo)
  /-- PT_ADD, opcode 0x5C (R282): `d` P dest, `a` P src, `b` P src. -/
  | ptAdd (d a b : RegNo)
  /-- PT_SUB, opcode 0x5D (R283): `d` P dest, `a` P src, `b` P src. -/
  | ptSub (d a b : RegNo)
  /-- PT_NEG, opcode 0x5E (R284): `d` P dest, `a` P src. -/
  | ptNeg (d a : RegNo)
  /-- PT_CSEL, opcode 0x5F (R285): `d` P dest, `a` P src, `b` P src, `c` C src. -/
  | ptCsel (d a b c : RegNo)
  /-- PT_CNEG, opcode 0x60 (R286): `d` P src+dest, `c` C src. -/
  | ptCneg (d c : RegNo)
  /-- PT_CASSIGN, opcode 0x61 (R287): `d` P src+dest, `a` P src, `c` C src. -/
  | ptCassign (d a c : RegNo)
  /-- PT_EQ, opcode 0x62 (R288): `d` C dest, `a` P src, `b` P src. -/
  | ptEq (d a b : RegNo)
  /-- PT_ISSMALL, opcode 0x63 (R289): `d` C dest, `a` P src. -/
  | ptIssmall (d a : RegNo)
  /-- PT_ISIDENT, opcode 0x64 (R290): `d` C dest, `a` P src. -/
  | ptIsident (d a : RegNo)
  /-- PT_MULCOF, opcode 0x65 (R291): `d` P dest, `a` P src. -/
  | ptMulcof (d a : RegNo)
  /-- PT_EADD, opcode 0x66 (R292): `d` P dest, `a` P src, `b` P src. -/
  | ptEadd (d a b : RegNo)
  /-- PT_ESUB, opcode 0x67 (R293): `d` P dest, `a` P src, `b` P src. -/
  | ptEsub (d a b : RegNo)
  /-- PT_EDBL, opcode 0x68 (R294): `d` P dest, `a` P src. -/
  | ptEdbl (d a : RegNo)
  /-- PT_SMUL, opcode 0x70 (R325): `d` P dest, `a` P src, `b` S src. -/
  | ptSmul (d a b : RegNo)
  /-- PT_DSMB, opcode 0x71 (R329): `d` P dest, `a` S src, `b` P src, `c` S src. -/
  | ptDsmb (d a b c : RegNo)
  /-- MSM_CLR, opcode 0x72 (R331). -/
  | msmClr
  /-- MSM_PUSH, opcode 0x73 (R332): `a` S src, `b` P src. -/
  | msmPush (a b : RegNo)
  /-- MSM_RUN, opcode 0x74 (R333): `d` P dest. -/
  | msmRun (d : RegNo)
  /-- ELL2, opcode 0x78 (R351): `d` F dest, `a` F src. -/
  | ell2 (d a : RegNo)
  /-- MTOE, opcode 0x79 (R352): `d` P dest, `a` F src, `imm` immediate. -/
  | mtoe (d a : RegNo) (imm : Imm)
deriving DecidableEq, Repr

end Sys2Proof
end

