-- ==== Sys2Proof/WellFormed.lean ====
section
/-! DEFINITION. Which commands are well formed on an instance: every register number below its file's count
(30_encoding.md R101), every immediate in its range (R102), FE_POW22501 with two different destinations (R110).
A word that decodes is well formed (R103). -/
namespace Sys2Proof

/-- The operand conditions of 30_encoding.md R101, R102 and R110, row by row of R107. -/
def Instr.wellFormed (prm : Params) : Instr → Bool
  | .nop => true
  | .chSet d imm => d.toNat < prm.nc ∧ imm.toNat ≤ 1
  | .chNot d a => d.toNat < prm.nc ∧ a.toNat < prm.nc
  | .chAnd d a b => d.toNat < prm.nc ∧ a.toNat < prm.nc ∧ b.toNat < prm.nc
  | .chOr d a b => d.toNat < prm.nc ∧ a.toNat < prm.nc ∧ b.toNat < prm.nc
  | .chXor d a b => d.toNat < prm.nc ∧ a.toNat < prm.nc ∧ b.toNat < prm.nc
  | .feLd d imm => d.toNat < prm.nf ∧ imm.toNat + 1 ≤ prm.nslot
  | .feSt a imm => a.toNat < prm.nf ∧ imm.toNat + 1 ≤ prm.nslot
  | .feConst d imm => d.toNat < prm.nf ∧ imm.toNat ≤ 7
  | .feMov d a => d.toNat < prm.nf ∧ a.toNat < prm.nf
  | .feAdd d a b => d.toNat < prm.nf ∧ a.toNat < prm.nf ∧ b.toNat < prm.nf
  | .feSub d a b => d.toNat < prm.nf ∧ a.toNat < prm.nf ∧ b.toNat < prm.nf
  | .feNeg d a => d.toNat < prm.nf ∧ a.toNat < prm.nf
  | .feMul d a b => d.toNat < prm.nf ∧ a.toNat < prm.nf ∧ b.toNat < prm.nf
  | .feSq d a => d.toNat < prm.nf ∧ a.toNat < prm.nf
  | .feSq2 d a => d.toNat < prm.nf ∧ a.toNat < prm.nf
  | .fePow2k d a imm => d.toNat < prm.nf ∧ a.toNat < prm.nf ∧ 1 ≤ imm.toNat ∧ imm.toNat ≤ 4095
  | .feInv d a => d.toNat < prm.nf ∧ a.toNat < prm.nf
  | .fePowp58 d a => d.toNat < prm.nf ∧ a.toNat < prm.nf
  | .fePow22501 d a b => d.toNat < prm.nf ∧ a.toNat < prm.nf ∧ b.toNat < prm.nf ∧ d ≠ a
  | .feSqrtri d a b c => d.toNat < prm.nf ∧ a.toNat < prm.nf ∧ b.toNat < prm.nf ∧ c.toNat < prm.nc
  | .feRed d a => d.toNat < prm.nf ∧ a.toNat < prm.nf
  | .feCsel d a b c => d.toNat < prm.nf ∧ a.toNat < prm.nf ∧ b.toNat < prm.nf ∧ c.toNat < prm.nc
  | .feCneg d c => d.toNat < prm.nf ∧ c.toNat < prm.nc
  | .feCassign d a c => d.toNat < prm.nf ∧ a.toNat < prm.nf ∧ c.toNat < prm.nc
  | .feEq d a b => d.toNat < prm.nc ∧ a.toNat < prm.nf ∧ b.toNat < prm.nf
  | .feIsneg d a => d.toNat < prm.nc ∧ a.toNat < prm.nf
  | .feIszero d a => d.toNat < prm.nc ∧ a.toNat < prm.nf
  | .scLd d imm => d.toNat < prm.ns ∧ imm.toNat + 1 ≤ prm.nslot
  | .scLdw d imm => d.toNat < prm.ns ∧ imm.toNat + 2 ≤ prm.nslot
  | .scSt a imm => a.toNat < prm.ns ∧ imm.toNat + 1 ≤ prm.nslot
  | .scMov d a => d.toNat < prm.ns ∧ a.toNat < prm.ns
  | .scAdd d a b => d.toNat < prm.ns ∧ a.toNat < prm.ns ∧ b.toNat < prm.ns
  | .scSub d a b => d.toNat < prm.ns ∧ a.toNat < prm.ns ∧ b.toNat < prm.ns
  | .scMul d a b => d.toNat < prm.ns ∧ a.toNat < prm.ns ∧ b.toNat < prm.ns
  | .scNeg d a => d.toNat < prm.ns ∧ a.toNat < prm.ns
  | .scRed d a => d.toNat < prm.ns ∧ a.toNat < prm.ns
  | .scIscanon d a => d.toNat < prm.nc ∧ a.toNat < prm.ns
  | .scMmul d a b => d.toNat < prm.ns ∧ a.toNat < prm.ns ∧ b.toNat < prm.ns
  | .scTomont d a => d.toNat < prm.ns ∧ a.toNat < prm.ns
  | .scFrommont d a => d.toNat < prm.ns ∧ a.toNat < prm.ns
  | .scRadix16 d a => d.toNat < prm.ndg ∧ a.toNat < prm.ns
  | .scRadix2w d a imm => d.toNat < prm.ndg ∧ a.toNat < prm.ns ∧ 4 ≤ imm.toNat ∧ imm.toNat ≤ 8
  | .scNaf d a imm => d.toNat < prm.ndg ∧ a.toNat < prm.ns ∧ 2 ≤ imm.toNat ∧ imm.toNat ≤ 8
  | .dgSt a imm => a.toNat < prm.ndg ∧ imm.toNat + 8 ≤ prm.nslot
  | .ptIdent d => d.toNat < prm.np
  | .ptBase d => d.toNat < prm.np
  | .ptMov d a => d.toNat < prm.np ∧ a.toNat < prm.np
  | .ptDecomp d a imm => d.toNat < prm.np ∧ a.toNat < prm.nc ∧ imm.toNat + 1 ≤ prm.nslot
  | .ptComp a imm => a.toNat < prm.np ∧ imm.toNat + 1 ≤ prm.nslot
  | .ptE2p d a => d.toNat < prm.np ∧ a.toNat < prm.np
  | .ptE2pn d a => d.toNat < prm.np ∧ a.toNat < prm.np
  | .ptE2an d a => d.toNat < prm.np ∧ a.toNat < prm.np
  | .ptP2e d a => d.toNat < prm.np ∧ a.toNat < prm.np
  | .ptC2p d a => d.toNat < prm.np ∧ a.toNat < prm.np
  | .ptC2e d a => d.toNat < prm.np ∧ a.toNat < prm.np
  | .ptDbl d a => d.toNat < prm.np ∧ a.toNat < prm.np
  | .ptAdd d a b => d.toNat < prm.np ∧ a.toNat < prm.np ∧ b.toNat < prm.np
  | .ptSub d a b => d.toNat < prm.np ∧ a.toNat < prm.np ∧ b.toNat < prm.np
  | .ptNeg d a => d.toNat < prm.np ∧ a.toNat < prm.np
  | .ptCsel d a b c => d.toNat < prm.np ∧ a.toNat < prm.np ∧ b.toNat < prm.np ∧ c.toNat < prm.nc
  | .ptCneg d c => d.toNat < prm.np ∧ c.toNat < prm.nc
  | .ptCassign d a c => d.toNat < prm.np ∧ a.toNat < prm.np ∧ c.toNat < prm.nc
  | .ptEq d a b => d.toNat < prm.nc ∧ a.toNat < prm.np ∧ b.toNat < prm.np
  | .ptIssmall d a => d.toNat < prm.nc ∧ a.toNat < prm.np
  | .ptIsident d a => d.toNat < prm.nc ∧ a.toNat < prm.np
  | .ptMulcof d a => d.toNat < prm.np ∧ a.toNat < prm.np
  | .ptEadd d a b => d.toNat < prm.np ∧ a.toNat < prm.np ∧ b.toNat < prm.np
  | .ptEsub d a b => d.toNat < prm.np ∧ a.toNat < prm.np ∧ b.toNat < prm.np
  | .ptEdbl d a => d.toNat < prm.np ∧ a.toNat < prm.np
  | .ptSmul d a b => d.toNat < prm.np ∧ a.toNat < prm.np ∧ b.toNat < prm.ns
  | .ptDsmb d a b c => d.toNat < prm.np ∧ a.toNat < prm.ns ∧ b.toNat < prm.np ∧ c.toNat < prm.ns
  | .msmClr => true
  | .msmPush a b => a.toNat < prm.ns ∧ b.toNat < prm.np
  | .msmRun d => d.toNat < prm.np
  | .ell2 d a => d.toNat < prm.nf ∧ a.toNat < prm.nf
  | .mtoe d a imm => d.toNat < prm.np ∧ a.toNat < prm.nf ∧ imm.toNat ≤ 1

/-- `i` is a well-formed command of the instance `prm`. -/
abbrev Instr.WellFormed (prm : Params) (i : Instr) : Prop := i.wellFormed prm = true

end Sys2Proof
end

