-- ==== Sys2Proof/Decode.lean ====
section
/-! DEFINITION. Decoding a command word (30_encoding.md R100 to R110): the fields of the two formats, the command
table with its match and mask columns, the checks in the order of R103, and the encoder written from the same
table. The decoder is total: every word is one well-formed command or a named fault (R103). -/
namespace Sys2Proof

/-! ### The fields of a word (R100) -/

/-- `bits[lo+n-1 : lo]` of a word (00_scope.md R7). -/
def bitsAt (n lo : Nat) (w : Word) : BitVec n := BitVec.ofNat n (w.toNat / 2 ^ lo)

/-- `op`, bits 31:24. -/
def fieldOp (w : Word) : BitVec 8 := bitsAt 8 24 w
/-- `d`, bits 23:18. -/
def fieldD (w : Word) : RegNo := bitsAt 6 18 w
/-- `a`, bits 17:12. -/
def fieldA (w : Word) : RegNo := bitsAt 6 12 w
/-- `b`, bits 11:6, of format R. -/
def fieldB (w : Word) : RegNo := bitsAt 6 6 w
/-- `c`, bits 5:0, of format R. -/
def fieldC (w : Word) : RegNo := bitsAt 6 0 w
/-- `imm`, bits 11:0, of format I; unsigned, never shifted or scattered (R102). -/
def fieldImm (w : Word) : Imm := bitsAt 12 0 w

/-- The word of format R with these fields (R100). -/
def wordR (op : BitVec 8) (d a b c : RegNo) : Word :=
  BitVec.ofNat 32 (op.toNat * 2 ^ 24 + d.toNat * 2 ^ 18 + a.toNat * 2 ^ 12 + b.toNat * 2 ^ 6 + c.toNat)

/-- The word of format I with these fields (R100). -/
def wordI (op : BitVec 8) (d a : RegNo) (imm : Imm) : Word :=
  BitVec.ofNat 32 (op.toNat * 2 ^ 24 + d.toNat * 2 ^ 18 + a.toNat * 2 ^ 12 + imm.toNat)

/-! ### Operands and their ranges (R101, R102) -/

/-- What a field of a command names (R101, R102), and the pair of destinations of R110. -/
inductive Operand where
  | f (n : RegNo)
  | s (n : RegNo)
  | p (n : RegNo)
  | c (n : RegNo)
  | dg (n : RegNo)
  /-- An immediate with its least and greatest legal value. -/
  | range (v : Imm) (lo hi : Nat)
  /-- Two destinations that must differ (R110). -/
  | distinct (x y : RegNo)
  /-- A slot number and how many slots the command accesses from it on. -/
  | slots (v : Imm) (n : Nat)
deriving DecidableEq, Repr

/-- The operands of a command, by the "fields" column of R107. -/
def Instr.operands : Instr → List Operand
  | .nop => []
  | .chSet d imm => [.c d, .range imm 0 1]
  | .chNot d a => [.c d, .c a]
  | .chAnd d a b => [.c d, .c a, .c b]
  | .chOr d a b => [.c d, .c a, .c b]
  | .chXor d a b => [.c d, .c a, .c b]
  | .feLd d imm => [.f d, .slots imm 1]
  | .feSt a imm => [.f a, .slots imm 1]
  | .feConst d imm => [.f d, .range imm 0 7]
  | .feMov d a => [.f d, .f a]
  | .feAdd d a b => [.f d, .f a, .f b]
  | .feSub d a b => [.f d, .f a, .f b]
  | .feNeg d a => [.f d, .f a]
  | .feMul d a b => [.f d, .f a, .f b]
  | .feSq d a => [.f d, .f a]
  | .feSq2 d a => [.f d, .f a]
  | .fePow2k d a imm => [.f d, .f a, .range imm 1 4095]
  | .feInv d a => [.f d, .f a]
  | .fePowp58 d a => [.f d, .f a]
  | .fePow22501 d a b => [.f d, .f a, .f b, .distinct d a]
  | .feSqrtri d a b c => [.f d, .f a, .f b, .c c]
  | .feRed d a => [.f d, .f a]
  | .feCsel d a b c => [.f d, .f a, .f b, .c c]
  | .feCneg d c => [.f d, .c c]
  | .feCassign d a c => [.f d, .f a, .c c]
  | .feEq d a b => [.c d, .f a, .f b]
  | .feIsneg d a => [.c d, .f a]
  | .feIszero d a => [.c d, .f a]
  | .scLd d imm => [.s d, .slots imm 1]
  | .scLdw d imm => [.s d, .slots imm 2]
  | .scSt a imm => [.s a, .slots imm 1]
  | .scMov d a => [.s d, .s a]
  | .scAdd d a b => [.s d, .s a, .s b]
  | .scSub d a b => [.s d, .s a, .s b]
  | .scMul d a b => [.s d, .s a, .s b]
  | .scNeg d a => [.s d, .s a]
  | .scRed d a => [.s d, .s a]
  | .scIscanon d a => [.c d, .s a]
  | .scMmul d a b => [.s d, .s a, .s b]
  | .scTomont d a => [.s d, .s a]
  | .scFrommont d a => [.s d, .s a]
  | .scRadix16 d a => [.dg d, .s a]
  | .scRadix2w d a imm => [.dg d, .s a, .range imm 4 8]
  | .scNaf d a imm => [.dg d, .s a, .range imm 2 8]
  | .dgSt a imm => [.dg a, .slots imm 8]
  | .ptIdent d => [.p d]
  | .ptBase d => [.p d]
  | .ptMov d a => [.p d, .p a]
  | .ptDecomp d a imm => [.p d, .c a, .slots imm 1]
  | .ptComp a imm => [.p a, .slots imm 1]
  | .ptE2p d a => [.p d, .p a]
  | .ptE2pn d a => [.p d, .p a]
  | .ptE2an d a => [.p d, .p a]
  | .ptP2e d a => [.p d, .p a]
  | .ptC2p d a => [.p d, .p a]
  | .ptC2e d a => [.p d, .p a]
  | .ptDbl d a => [.p d, .p a]
  | .ptAdd d a b => [.p d, .p a, .p b]
  | .ptSub d a b => [.p d, .p a, .p b]
  | .ptNeg d a => [.p d, .p a]
  | .ptCsel d a b c => [.p d, .p a, .p b, .c c]
  | .ptCneg d c => [.p d, .c c]
  | .ptCassign d a c => [.p d, .p a, .c c]
  | .ptEq d a b => [.c d, .p a, .p b]
  | .ptIssmall d a => [.c d, .p a]
  | .ptIsident d a => [.c d, .p a]
  | .ptMulcof d a => [.p d, .p a]
  | .ptEadd d a b => [.p d, .p a, .p b]
  | .ptEsub d a b => [.p d, .p a, .p b]
  | .ptEdbl d a => [.p d, .p a]
  | .ptSmul d a b => [.p d, .p a, .s b]
  | .ptDsmb d a b c => [.p d, .s a, .p b, .s c]
  | .msmClr => []
  | .msmPush a b => [.s a, .p b]
  | .msmRun d => [.p d]
  | .ell2 d a => [.f d, .f a]
  | .mtoe d a imm => [.p d, .f a, .range imm 0 1]

/-- The condition whose failure is ILLEGAL_FIELD: register numbers below the file's count (R101), non-slot
immediates in range (R102), different destinations (R110). A slot number has none. -/
def Operand.fieldLegal (prm : Params) : Operand → Bool
  | .f n => n.toNat < prm.nf
  | .s n => n.toNat < prm.ns
  | .p n => n.toNat < prm.np
  | .c n => n.toNat < prm.nc
  | .dg n => n.toNat < prm.ndg
  | .range v lo hi => lo ≤ v.toNat ∧ v.toNat ≤ hi
  | .distinct x y => x ≠ y
  | .slots _ _ => true

/-- The condition whose failure is SLOT_RANGE: `imm + n <= NSLOT` (20_memory.md R71). -/
def Operand.slotLegal (prm : Params) : Operand → Bool
  | .slots v n => v.toNat + n ≤ prm.nslot
  | _ => true

/-- Steps 4 and 5 of R103: the fault of the first operand check that fails, ILLEGAL_FIELD before SLOT_RANGE. -/
def Instr.check (prm : Params) (i : Instr) : Option FaultCode :=
  if i.operands.all (Operand.fieldLegal prm) then
    if i.operands.all (Operand.slotLegal prm) then none else some .slotRange
  else some .illegalField

/-! ### The command table (R107) -/

/-- A row of R107: the opcode, the mask column, and the command its fields make. The match column is the opcode in
bits 31:24 and zeros below (R105). -/
structure Row where
  op : BitVec 8
  mask : Word
  build : Word → Instr

/-- The rows of 30_encoding.md R107 of the system and choice commands (R104). -/
def rowsSystem : List Row := [
  ⟨0x01, 0xFFFFFFFF, fun _ => .nop⟩,
  ⟨0x08, 0xFF03F000, fun w => .chSet (fieldD w) (fieldImm w)⟩,
  ⟨0x09, 0xFF000FFF, fun w => .chNot (fieldD w) (fieldA w)⟩,
  ⟨0x0A, 0xFF00003F, fun w => .chAnd (fieldD w) (fieldA w) (fieldB w)⟩,
  ⟨0x0B, 0xFF00003F, fun w => .chOr (fieldD w) (fieldA w) (fieldB w)⟩,
  ⟨0x0C, 0xFF00003F, fun w => .chXor (fieldD w) (fieldA w) (fieldB w)⟩]

/-- The rows of 30_encoding.md R107 of the field engine (R104). -/
def rowsField : List Row := [
  ⟨0x10, 0xFF03F000, fun w => .feLd (fieldD w) (fieldImm w)⟩,
  ⟨0x11, 0xFFFC0000, fun w => .feSt (fieldA w) (fieldImm w)⟩,
  ⟨0x12, 0xFF03F000, fun w => .feConst (fieldD w) (fieldImm w)⟩,
  ⟨0x13, 0xFF000FFF, fun w => .feMov (fieldD w) (fieldA w)⟩,
  ⟨0x14, 0xFF00003F, fun w => .feAdd (fieldD w) (fieldA w) (fieldB w)⟩,
  ⟨0x15, 0xFF00003F, fun w => .feSub (fieldD w) (fieldA w) (fieldB w)⟩,
  ⟨0x16, 0xFF000FFF, fun w => .feNeg (fieldD w) (fieldA w)⟩,
  ⟨0x17, 0xFF00003F, fun w => .feMul (fieldD w) (fieldA w) (fieldB w)⟩,
  ⟨0x18, 0xFF000FFF, fun w => .feSq (fieldD w) (fieldA w)⟩,
  ⟨0x19, 0xFF000FFF, fun w => .feSq2 (fieldD w) (fieldA w)⟩,
  ⟨0x1A, 0xFF000000, fun w => .fePow2k (fieldD w) (fieldA w) (fieldImm w)⟩,
  ⟨0x1B, 0xFF000FFF, fun w => .feInv (fieldD w) (fieldA w)⟩,
  ⟨0x1C, 0xFF000FFF, fun w => .fePowp58 (fieldD w) (fieldA w)⟩,
  ⟨0x1D, 0xFF00003F, fun w => .fePow22501 (fieldD w) (fieldA w) (fieldB w)⟩,
  ⟨0x1E, 0xFF000000, fun w => .feSqrtri (fieldD w) (fieldA w) (fieldB w) (fieldC w)⟩,
  ⟨0x1F, 0xFF000FFF, fun w => .feRed (fieldD w) (fieldA w)⟩,
  ⟨0x20, 0xFF000000, fun w => .feCsel (fieldD w) (fieldA w) (fieldB w) (fieldC w)⟩,
  ⟨0x21, 0xFF03FFC0, fun w => .feCneg (fieldD w) (fieldC w)⟩,
  ⟨0x22, 0xFF000FC0, fun w => .feCassign (fieldD w) (fieldA w) (fieldC w)⟩,
  ⟨0x23, 0xFF00003F, fun w => .feEq (fieldD w) (fieldA w) (fieldB w)⟩,
  ⟨0x24, 0xFF000FFF, fun w => .feIsneg (fieldD w) (fieldA w)⟩,
  ⟨0x25, 0xFF000FFF, fun w => .feIszero (fieldD w) (fieldA w)⟩]

/-- The rows of 30_encoding.md R107 of the scalar engine (R104). -/
def rowsScalar : List Row := [
  ⟨0x30, 0xFF03F000, fun w => .scLd (fieldD w) (fieldImm w)⟩,
  ⟨0x31, 0xFF03F000, fun w => .scLdw (fieldD w) (fieldImm w)⟩,
  ⟨0x32, 0xFFFC0000, fun w => .scSt (fieldA w) (fieldImm w)⟩,
  ⟨0x33, 0xFF000FFF, fun w => .scMov (fieldD w) (fieldA w)⟩,
  ⟨0x34, 0xFF00003F, fun w => .scAdd (fieldD w) (fieldA w) (fieldB w)⟩,
  ⟨0x35, 0xFF00003F, fun w => .scSub (fieldD w) (fieldA w) (fieldB w)⟩,
  ⟨0x36, 0xFF00003F, fun w => .scMul (fieldD w) (fieldA w) (fieldB w)⟩,
  ⟨0x37, 0xFF000FFF, fun w => .scNeg (fieldD w) (fieldA w)⟩,
  ⟨0x38, 0xFF000FFF, fun w => .scRed (fieldD w) (fieldA w)⟩,
  ⟨0x39, 0xFF000FFF, fun w => .scIscanon (fieldD w) (fieldA w)⟩,
  ⟨0x3A, 0xFF00003F, fun w => .scMmul (fieldD w) (fieldA w) (fieldB w)⟩,
  ⟨0x3B, 0xFF000FFF, fun w => .scTomont (fieldD w) (fieldA w)⟩,
  ⟨0x3C, 0xFF000FFF, fun w => .scFrommont (fieldD w) (fieldA w)⟩,
  ⟨0x40, 0xFF000FFF, fun w => .scRadix16 (fieldD w) (fieldA w)⟩,
  ⟨0x41, 0xFF000000, fun w => .scRadix2w (fieldD w) (fieldA w) (fieldImm w)⟩,
  ⟨0x42, 0xFF000000, fun w => .scNaf (fieldD w) (fieldA w) (fieldImm w)⟩,
  ⟨0x43, 0xFFFC0000, fun w => .dgSt (fieldA w) (fieldImm w)⟩]

/-- The rows of 30_encoding.md R107 of the point representations and arithmetic (R104). -/
def rowsPoint : List Row := [
  ⟨0x50, 0xFF03FFFF, fun w => .ptIdent (fieldD w)⟩,
  ⟨0x51, 0xFF03FFFF, fun w => .ptBase (fieldD w)⟩,
  ⟨0x52, 0xFF000FFF, fun w => .ptMov (fieldD w) (fieldA w)⟩,
  ⟨0x53, 0xFF000000, fun w => .ptDecomp (fieldD w) (fieldA w) (fieldImm w)⟩,
  ⟨0x54, 0xFFFC0000, fun w => .ptComp (fieldA w) (fieldImm w)⟩,
  ⟨0x55, 0xFF000FFF, fun w => .ptE2p (fieldD w) (fieldA w)⟩,
  ⟨0x56, 0xFF000FFF, fun w => .ptE2pn (fieldD w) (fieldA w)⟩,
  ⟨0x57, 0xFF000FFF, fun w => .ptE2an (fieldD w) (fieldA w)⟩,
  ⟨0x58, 0xFF000FFF, fun w => .ptP2e (fieldD w) (fieldA w)⟩,
  ⟨0x59, 0xFF000FFF, fun w => .ptC2p (fieldD w) (fieldA w)⟩,
  ⟨0x5A, 0xFF000FFF, fun w => .ptC2e (fieldD w) (fieldA w)⟩,
  ⟨0x5B, 0xFF000FFF, fun w => .ptDbl (fieldD w) (fieldA w)⟩,
  ⟨0x5C, 0xFF00003F, fun w => .ptAdd (fieldD w) (fieldA w) (fieldB w)⟩,
  ⟨0x5D, 0xFF00003F, fun w => .ptSub (fieldD w) (fieldA w) (fieldB w)⟩,
  ⟨0x5E, 0xFF000FFF, fun w => .ptNeg (fieldD w) (fieldA w)⟩,
  ⟨0x5F, 0xFF000000, fun w => .ptCsel (fieldD w) (fieldA w) (fieldB w) (fieldC w)⟩,
  ⟨0x60, 0xFF03FFC0, fun w => .ptCneg (fieldD w) (fieldC w)⟩,
  ⟨0x61, 0xFF000FC0, fun w => .ptCassign (fieldD w) (fieldA w) (fieldC w)⟩,
  ⟨0x62, 0xFF00003F, fun w => .ptEq (fieldD w) (fieldA w) (fieldB w)⟩,
  ⟨0x63, 0xFF000FFF, fun w => .ptIssmall (fieldD w) (fieldA w)⟩,
  ⟨0x64, 0xFF000FFF, fun w => .ptIsident (fieldD w) (fieldA w)⟩,
  ⟨0x65, 0xFF000FFF, fun w => .ptMulcof (fieldD w) (fieldA w)⟩,
  ⟨0x66, 0xFF00003F, fun w => .ptEadd (fieldD w) (fieldA w) (fieldB w)⟩,
  ⟨0x67, 0xFF00003F, fun w => .ptEsub (fieldD w) (fieldA w) (fieldB w)⟩,
  ⟨0x68, 0xFF000FFF, fun w => .ptEdbl (fieldD w) (fieldA w)⟩]

/-- The rows of 30_encoding.md R107 of the multipliers and Elligator2 (R104). -/
def rowsMult : List Row := [
  ⟨0x70, 0xFF00003F, fun w => .ptSmul (fieldD w) (fieldA w) (fieldB w)⟩,
  ⟨0x71, 0xFF000000, fun w => .ptDsmb (fieldD w) (fieldA w) (fieldB w) (fieldC w)⟩,
  ⟨0x72, 0xFFFFFFFF, fun _ => .msmClr⟩,
  ⟨0x73, 0xFFFC003F, fun w => .msmPush (fieldA w) (fieldB w)⟩,
  ⟨0x74, 0xFF03FFFF, fun w => .msmRun (fieldD w)⟩,
  ⟨0x78, 0xFF000FFF, fun w => .ell2 (fieldD w) (fieldA w)⟩,
  ⟨0x79, 0xFF000000, fun w => .mtoe (fieldD w) (fieldA w) (fieldImm w)⟩]

/-- The complete command table, 77 rows (R107). -/
def rows : List Row := rowsSystem ++ rowsField ++ rowsScalar ++ rowsPoint ++ rowsMult

/-- The row of an opcode; none for the opcodes R108 lists. -/
def rowOf (op : BitVec 8) : Option Row := rows.find? fun r => r.op == op

/-- The match column of a row (R105, R107). -/
def Row.matchWord (r : Row) : Word := wordI r.op 0 0 0

/-- The decoding procedure of R103: opcode, unused fields, register numbers and immediates, slots. -/
def decode (prm : Params) (w : Word) : Except FaultCode Instr :=
  match rowOf (fieldOp w) with
  | none => .error .illegalOpcode
  | some r =>
    if w &&& r.mask = r.matchWord then
      match (r.build w).check prm with
      | none => .ok (r.build w)
      | some k => .error k
    else .error .illegalField

/-! ### The encoder -/

/-- The word of a command: the opcode and format of its row of R107, unused fields zero (R103). -/
def encode : Instr → Word
  | .nop => wordR 0x01 0 0 0 0
  | .chSet d imm => wordI 0x08 d 0 imm
  | .chNot d a => wordR 0x09 d a 0 0
  | .chAnd d a b => wordR 0x0A d a b 0
  | .chOr d a b => wordR 0x0B d a b 0
  | .chXor d a b => wordR 0x0C d a b 0
  | .feLd d imm => wordI 0x10 d 0 imm
  | .feSt a imm => wordI 0x11 0 a imm
  | .feConst d imm => wordI 0x12 d 0 imm
  | .feMov d a => wordR 0x13 d a 0 0
  | .feAdd d a b => wordR 0x14 d a b 0
  | .feSub d a b => wordR 0x15 d a b 0
  | .feNeg d a => wordR 0x16 d a 0 0
  | .feMul d a b => wordR 0x17 d a b 0
  | .feSq d a => wordR 0x18 d a 0 0
  | .feSq2 d a => wordR 0x19 d a 0 0
  | .fePow2k d a imm => wordI 0x1A d a imm
  | .feInv d a => wordR 0x1B d a 0 0
  | .fePowp58 d a => wordR 0x1C d a 0 0
  | .fePow22501 d a b => wordR 0x1D d a b 0
  | .feSqrtri d a b c => wordR 0x1E d a b c
  | .feRed d a => wordR 0x1F d a 0 0
  | .feCsel d a b c => wordR 0x20 d a b c
  | .feCneg d c => wordR 0x21 d 0 0 c
  | .feCassign d a c => wordR 0x22 d a 0 c
  | .feEq d a b => wordR 0x23 d a b 0
  | .feIsneg d a => wordR 0x24 d a 0 0
  | .feIszero d a => wordR 0x25 d a 0 0
  | .scLd d imm => wordI 0x30 d 0 imm
  | .scLdw d imm => wordI 0x31 d 0 imm
  | .scSt a imm => wordI 0x32 0 a imm
  | .scMov d a => wordR 0x33 d a 0 0
  | .scAdd d a b => wordR 0x34 d a b 0
  | .scSub d a b => wordR 0x35 d a b 0
  | .scMul d a b => wordR 0x36 d a b 0
  | .scNeg d a => wordR 0x37 d a 0 0
  | .scRed d a => wordR 0x38 d a 0 0
  | .scIscanon d a => wordR 0x39 d a 0 0
  | .scMmul d a b => wordR 0x3A d a b 0
  | .scTomont d a => wordR 0x3B d a 0 0
  | .scFrommont d a => wordR 0x3C d a 0 0
  | .scRadix16 d a => wordR 0x40 d a 0 0
  | .scRadix2w d a imm => wordI 0x41 d a imm
  | .scNaf d a imm => wordI 0x42 d a imm
  | .dgSt a imm => wordI 0x43 0 a imm
  | .ptIdent d => wordR 0x50 d 0 0 0
  | .ptBase d => wordR 0x51 d 0 0 0
  | .ptMov d a => wordR 0x52 d a 0 0
  | .ptDecomp d a imm => wordI 0x53 d a imm
  | .ptComp a imm => wordI 0x54 0 a imm
  | .ptE2p d a => wordR 0x55 d a 0 0
  | .ptE2pn d a => wordR 0x56 d a 0 0
  | .ptE2an d a => wordR 0x57 d a 0 0
  | .ptP2e d a => wordR 0x58 d a 0 0
  | .ptC2p d a => wordR 0x59 d a 0 0
  | .ptC2e d a => wordR 0x5A d a 0 0
  | .ptDbl d a => wordR 0x5B d a 0 0
  | .ptAdd d a b => wordR 0x5C d a b 0
  | .ptSub d a b => wordR 0x5D d a b 0
  | .ptNeg d a => wordR 0x5E d a 0 0
  | .ptCsel d a b c => wordR 0x5F d a b c
  | .ptCneg d c => wordR 0x60 d 0 0 c
  | .ptCassign d a c => wordR 0x61 d a 0 c
  | .ptEq d a b => wordR 0x62 d a b 0
  | .ptIssmall d a => wordR 0x63 d a 0 0
  | .ptIsident d a => wordR 0x64 d a 0 0
  | .ptMulcof d a => wordR 0x65 d a 0 0
  | .ptEadd d a b => wordR 0x66 d a b 0
  | .ptEsub d a b => wordR 0x67 d a b 0
  | .ptEdbl d a => wordR 0x68 d a 0 0
  | .ptSmul d a b => wordR 0x70 d a b 0
  | .ptDsmb d a b c => wordR 0x71 d a b c
  | .msmClr => wordR 0x72 0 0 0 0
  | .msmPush a b => wordR 0x73 0 a b 0
  | .msmRun d => wordR 0x74 d 0 0 0
  | .ell2 d a => wordR 0x78 d a 0 0
  | .mtoe d a imm => wordI 0x79 d a imm

/-! ### The numbering of spec/opcode_table.json -/

/-- The command the decoder reads from a word of `nbits` bits, on the instance of 00_scope.md R6; none where it
faults. A command is one 32-bit word (R100); every bit from `nbits` on is 0. -/
def decodeTableWord (nbits w : Nat) : Option Instr :=
  match decode Params.default (BitVec.ofNat 32 (w % 2 ^ nbits)) with
  | .ok i => some i
  | .error _ => none

end Sys2Proof
end

