-- ==== Sys2Proof/Machine/State.lean ====
section
/-! DEFINITION. The state of the block (10_state.md R30): the five register files, the pair list, the operand
memory, the command counter and the fault record; with it the instance parameters and the host's side of the bus.
Registers that hold no value are `none`: that is the spec's EMPTY (10_state.md R31, R34, R36, R39, R40), which is
also their reset value (R58). -/
namespace Sys2Proof.Machine

/-- A FieldElement: five unsigned 64-bit limbs, radix 2^51 (10_state.md R31). -/
structure Fe where
  l0 : BitVec 64
  l1 : BitVec 64
  l2 : BitVec 64
  l3 : BitVec 64
  l4 : BitVec 64
deriving DecidableEq, Repr

/-- EdwardsPoint, extended coordinates: affine `(X/Z, Y/Z)` with `X Y = Z T` (10_state.md R37). -/
structure Ext where
  X : Fe
  Y : Fe
  Z : Fe
  T : Fe
deriving DecidableEq, Repr

/-- ProjectivePoint: affine `(X/Z, Y/Z)` (10_state.md R37). -/
structure Proj where
  X : Fe
  Y : Fe
  Z : Fe
deriving DecidableEq, Repr

/-- CompletedPoint: affine `(X/Z, Y/T)` (10_state.md R37). -/
structure Compl where
  X : Fe
  Y : Fe
  Z : Fe
  T : Fe
deriving DecidableEq, Repr

/-- ProjectiveNielsPoint `(Y+X, Y−X, Z, 2d·T)` of an extended point (10_state.md R37). -/
structure PNiels where
  YpX : Fe
  YmX : Fe
  Z : Fe
  T2d : Fe
deriving DecidableEq, Repr

/-- AffineNielsPoint `(y+x, y−x, xy·2d)` of an affine point (10_state.md R37). -/
structure ANiels where
  ypx : Fe
  ymx : Fe
  xy2d : Fe
deriving DecidableEq, Repr

/-- The content of a point register that is not EMPTY: a tag and its components (10_state.md R36, R37). -/
inductive Point where
  | ext (e : Ext)
  | proj (e : Proj)
  | compl (e : Compl)
  | pniels (e : PNiels)
  | aniels (e : ANiels)
deriving DecidableEq, Repr

/-- The content of a digit buffer: the digit count and 256 signed bytes (10_state.md R40). -/
structure Digits where
  len : Nat
  dig : List Byte
deriving DecidableEq, Repr

/-- A pair of the multiscalar list: a scalar content and an EXT content (10_state.md R41). -/
structure MsmPair where
  scalar : Scalar
  point : Ext
deriving DecidableEq, Repr

/-- The operand memory: (byte address, byte) pairs, addresses strictly rising, no byte equal to the 0 that an
unlisted address reads as (10_state.md R42; every byte is 0 at reset, R58). -/
abbrev Memory := List Host.Cell

/-- What reaches the block from outside: the host's bus accesses, one at a time in the order the host issues them
(20_memory.md R80, R81), and the reset input (70_reset_and_hazards.md R431). Offsets are bytes from the block's
base address (10_state.md R43). -/
inductive BusEvent where
  /-- A 32-bit read at a window offset. -/
  | read (offset : Nat)
  /-- A 32-bit write of a word at a window offset. -/
  | write (offset : Nat) (w : Word)
  /-- An access of another width in bytes: outside the contract (R80). -/
  | otherWidth (offset bytes : Nat)
  /-- The reset input is driven to this level; power-on is an assertion (R431). -/
  | resetInput (asserted : Bool)
deriving DecidableEq, Repr

/-- The machine. The fields down to `faultidx` are the architectural state of 10_state.md R30; `params` are the
instance's constants; `resetIn`, `bus` and `readLog` are the host's side of the register window. -/
structure State where
  /-- The instance parameters (00_scope.md R6): constants, not changed by any command or reset. -/
  params : Params
  /-- The field registers `F0 ..` (R31); `none` is EMPTY. -/
  F : List (Option Fe)
  /-- The scalar registers `S0 ..` (R34). -/
  S : List (Option Scalar)
  /-- The point registers `P0 ..` (R36). -/
  P : List (Option Point)
  /-- The choice bits `C0 ..` (R39). -/
  C : List (Option Bool)
  /-- The digit buffers `DG0 ..` (R40). -/
  DG : List (Option Digits)
  /-- The multiscalar pair list, in push order (R41). -/
  msm : List MsmPair
  /-- The operand memory ORAM (R42). -/
  oram : Memory
  /-- The count of commands retired since reset (R44). -/
  cmdidx : BitVec 32
  /-- The fault record (R50): whether a command has faulted, ... -/
  fault : Bool
  /-- ... the code, ... -/
  faultcode : BitVec 8
  /-- ... the command word, ... -/
  faultcmd : Word
  /-- ... and `cmdidx` at the time. -/
  faultidx : BitVec 32
  /-- The level of the reset input (70_reset_and_hazards.md R431). -/
  resetIn : Bool
  /-- What the host does next, the first element first (20_memory.md R81). -/
  bus : List BusEvent
  /-- The words the host's reads have returned, the latest last. -/
  readLog : List Word
deriving DecidableEq, Repr

/-- The reasons the machine stops with a fault of the model's own. The faults of the block itself
(60_exceptions.md) are not these: they are states with the fault record written (R410). -/
inductive Fault where
  /-- A bus access at an offset at or past the end of the block's window, an address the block does not have:
  20_memory.md R78 leaves it to the platform. Raised by a host access, never by a command. Safe. -/
  | outsideWindow
deriving DecidableEq, Repr

/-- The reasons the machine has no meaning for what it is given. -/
inductive Refusal where
  /-- A command that has no meaning yet, by its mnemonic; raised by `exec` alone. Safe. -/
  | notModelled (mnemonic : String)
  /-- A bus access that is not 32 bits wide: "a model refuses them" (20_memory.md R80). Safe. -/
  | accessWidth
  /-- A bus access at an offset that is not a multiple of 4 (20_memory.md R80). Safe. -/
  | misalignedAccess
  /-- A bus access while the reset input is asserted: the block accepts none (70_reset_and_hazards.md R431;
  93_implementation_defined.md U18). Safe. -/
  | accessDuringReset
deriving DecidableEq, Repr

/-- What a command or a bus event answers. -/
abbrev Result := Host.Outcome State Fault Refusal

/-- The reset state of an instance (10_state.md R58): every register EMPTY, the pair list empty, every byte of
ORAM 0, the counter and the fault record 0. The host has nothing on the bus and has read nothing. -/
def State.resetOf (prm : Params) : State where
  params := prm
  F := List.replicate prm.nf none
  S := List.replicate prm.ns none
  P := List.replicate prm.np none
  C := List.replicate prm.nc none
  DG := List.replicate prm.ndg none
  msm := []
  oram := []
  cmdidx := 0
  fault := false
  faultcode := 0
  faultcmd := 0
  faultidx := 0
  resetIn := false
  bus := []
  readLog := []

/-- The machine right after reset, on the instance of 00_scope.md R6 (10_state.md R58). -/
def State.reset : State := State.resetOf Params.default

end Sys2Proof.Machine
end

