-- ==== Sys2Proof/Machine/Constants.lean ====
section
/-! DEFINITION. The constants of the block, which are not state (10_state.md R30, 70_reset_and_hazards.md R433):
the field modulus and the group order (00_scope.md R6), the limb masks, the field constants of 41_field.md R160,
the scalar constants of 42_scalar.md R212 and the points of 43_point.md R262. -/
namespace Sys2Proof.Machine

/-- The field modulus `p = 2^255 − 19` (00_scope.md R6). -/
def p : Nat := 2 ^ 255 - 19

/-- The group order `l` (00_scope.md R6, 42_scalar.md R210). -/
def ell : Nat := 2 ^ 252 + 27742317777372353535851937790883648493

/-- `M51 = 2^51 − 1` (41_field.md section 2). -/
def M51 : Nat := 2 ^ 51 - 1

/-- `M52 = 2^52 − 1` (42_scalar.md R212). -/
def M52 : Nat := 2 ^ 52 - 1

/-- A field element from five limbs, each narrowed to its 64-bit register (10_state.md R31). -/
def Fe.ofLimbs (n0 n1 n2 n3 n4 : Nat) : Fe :=
  ⟨.ofNat 64 n0, .ofNat 64 n1, .ofNat 64 n2, .ofNat 64 n3, .ofNat 64 n4⟩

/-- The integer a limb vector stands for, before reduction (10_state.md R31). -/
def Fe.limbSum (x : Fe) : Nat :=
  x.l0.toNat + x.l1.toNat * 2 ^ 51 + x.l2.toNat * 2 ^ 102 + x.l3.toNat * 2 ^ 153 + x.l4.toNat * 2 ^ 204

/-- `fval`, the value in GF(p) of a limb vector, in `[0, p)` (10_state.md R31). -/
def Fe.fval (x : Fe) : Nat := x.limbSum % p

/-- The limb vector `(value >> 51 i) & M51` of a value below 2^255 (41_field.md R160). -/
def Fe.ofValue (v : Nat) : Fe :=
  Fe.ofLimbs (v &&& M51) (v >>> 51 &&& M51) (v >>> 102 &&& M51) (v >>> 153 &&& M51) (v >>> 204 &&& M51)

/-! ### Field constants (41_field.md R160) -/

/-- ZERO, id 0. -/
def feZero : Fe := Fe.ofLimbs 0 0 0 0 0
/-- ONE, id 1. -/
def feOne : Fe := Fe.ofLimbs 1 0 0 0 0
/-- MINUS_ONE, id 2. -/
def feMinusOne : Fe :=
  Fe.ofLimbs 2251799813685228 2251799813685247 2251799813685247 2251799813685247 2251799813685247
/-- EDWARDS_D, id 3. -/
def feEdwardsD : Fe :=
  Fe.ofLimbs 929955233495203 466365720129213 1662059464998953 2033849074728123 1442794654840575
/-- EDWARDS_D2, id 4. -/
def feEdwardsD2 : Fe :=
  Fe.ofLimbs 1859910466990425 932731440258426 1072319116312658 1815898335770999 633789495995903
/-- SQRT_M1, id 5. -/
def feSqrtM1 : Fe :=
  Fe.ofLimbs 1718705420411056 234908883556509 2233514472574048 2117202627021982 765476049583133
/-- MONTGOMERY_A, id 6. -/
def feMontgomeryA : Fe := Fe.ofLimbs 486662 0 0 0 0
/-- MONTGOMERY_A_NEG, id 7. -/
def feMontgomeryANeg : Fe :=
  Fe.ofLimbs 2251799813198567 2251799813685247 2251799813685247 2251799813685247 2251799813685247

/-- The constant of an id of FE_CONST (41_field.md R160, R172); the ids are 0 to 7. -/
def feConstOf : Nat → Fe
  | 0 => feZero
  | 1 => feOne
  | 2 => feMinusOne
  | 3 => feEdwardsD
  | 4 => feEdwardsD2
  | 5 => feSqrtM1
  | 6 => feMontgomeryA
  | _ => feMontgomeryANeg

/-! ### Points (43_point.md R262) -/

/-- The identity as an EXT point: `(0, 1, 1, 0)`. -/
def extIdentity : Ext := ⟨feZero, feOne, feOne, feZero⟩
/-- The identity as a PROJ point: `(0, 1, 1)`, where the accumulators of PT_DSMB and MSM_RUN start
(44_scalarmul_msm.md R329, R333). -/
def projIdentity : Proj := ⟨feZero, feOne, feOne⟩
/-- The identity as a PNIELS point: `(1, 1, 1, 0)`. -/
def pnielsIdentity : PNiels := ⟨feOne, feOne, feOne, feZero⟩
/-- The identity as an ANIELS point: `(1, 1, 0)`. -/
def anielsIdentity : ANiels := ⟨feOne, feOne, feZero⟩

/-- The basepoint `B` as an EXT point. -/
def extBase : Ext :=
  ⟨Fe.ofLimbs 1738742601995546 1146398526822698 2070867633025821 562264141797630 587772402128613,
   Fe.ofLimbs 1801439850948184 1351079888211148 450359962737049 900719925474099 1801439850948198,
   feOne,
   Fe.ofLimbs 1841354044333475 16398895984059 755974180946558 900171276175154 1821297809914039⟩

/-! ### Scalar constants (42_scalar.md R212) -/

/-- `LFACTOR = −l^(−1) mod 2^52`. -/
def lfactor : Nat := 0x00051da312547e1b

/-- `NAF_W_A`, the NAF width of PT_DSMB for the point `A` (00_scope.md R6). -/
def NAF_W_A : Nat := 5
/-- `NAF_W_B`, the NAF width of PT_DSMB for the basepoint (00_scope.md R6). -/
def NAF_W_B : Nat := 8
/-- `NAF_W_MSM`, the NAF width of MSM_RUN (00_scope.md R6). -/
def NAF_W_MSM : Nat := 5

end Sys2Proof.Machine
end

