-- ==== Sys2Proof/Machine/Field.lean ====
section
/-! DEFINITION. The reference limb datapath of the field engine, 41_field.md R152 to R165: what the field commands
compute on limb vectors. Limb variables are `u64` and product columns `u128`: each is narrowed where it is
assigned, and `Fe.ofLimbs` narrows a result to its registers. -/
namespace Sys2Proof.Machine

/-! ### Strict evaluation
`strictNat n k` is `k n`; it makes an evaluator compute `n` before it goes on with `k`. The loops of the long
commands use it so that a run of them stays shallow. It has no meaning of its own (Laws/Datapath.lean). -/

/-- `k n`, with `n` computed first. -/
def strictNat {α : Type} (n : Nat) (k : Nat → α) : α :=
  match n with
  | 0 => k 0
  | m + 1 => k (m + 1)

/-- `k x`, with the limbs of `x` computed first. -/
def strictFe {α : Type} (x : Fe) (k : Fe → α) : α :=
  strictNat x.l0.toNat fun n0 => strictNat x.l1.toNat fun n1 => strictNat x.l2.toNat fun n2 =>
  strictNat x.l3.toNat fun n3 => strictNat x.l4.toNat fun n4 => k (Fe.ofLimbs n0 n1 n2 n3 n4)

/-! ### Weak reduction, addition, subtraction, negation -/

/-- `fe_weak`: all five carries are taken from the input at once (R152). -/
def feWeak (x : Fe) : Fe :=
  Fe.ofLimbs
    ((x.l0.toNat &&& M51) + 19 * (x.l4.toNat >>> 51))
    ((x.l1.toNat &&& M51) + (x.l0.toNat >>> 51))
    ((x.l2.toNat &&& M51) + (x.l1.toNat >>> 51))
    ((x.l3.toNat &&& M51) + (x.l2.toNat >>> 51))
    ((x.l4.toNat &&& M51) + (x.l3.toNat >>> 51))

/-- `fe_add` (R153). -/
def feAdd (a b : Fe) : Fe :=
  feWeak (Fe.ofLimbs (a.l0.toNat + b.l0.toNat) (a.l1.toNat + b.l1.toNat) (a.l2.toNat + b.l2.toNat)
    (a.l3.toNat + b.l3.toNat) (a.l4.toNat + b.l4.toNat))

/-- The limbs of `16 p` (R154): `P16[0]`. -/
def P16lo : Nat := 36028797018963664
/-- The limbs of `16 p` (R154): `P16[1..4]`. -/
def P16hi : Nat := 36028797018963952

/-- `fe_sub`: the limbs `a[i] + P16[i] − b[i]`, weakly reduced (R154). -/
def feSub (a b : Fe) : Fe :=
  feWeak (Fe.ofLimbs (sub64 (a.l0.toNat + P16lo) b.l0.toNat) (sub64 (a.l1.toNat + P16hi) b.l1.toNat)
    (sub64 (a.l2.toNat + P16hi) b.l2.toNat) (sub64 (a.l3.toNat + P16hi) b.l3.toNat)
    (sub64 (a.l4.toNat + P16hi) b.l4.toNat))

/-- `fe_neg`: the limbs `P16[i] − a[i]`, weakly reduced (R155). -/
def feNeg (a : Fe) : Fe :=
  feWeak (Fe.ofLimbs (sub64 P16lo a.l0.toNat) (sub64 P16hi a.l1.toNat) (sub64 P16hi a.l2.toNat)
    (sub64 P16hi a.l3.toNat) (sub64 P16hi a.l4.toNat))

/-! ### Multiplication and squaring -/

/-- The carry chain of `fe_mul` on its five product columns (R156). -/
def feCarry (c0 c1 c2 c3 c4 : Nat) : Fe :=
  let c1 := u128 (c1 + (c0 >>> 51)); let o0 := c0 &&& M51
  let c2 := u128 (c2 + (c1 >>> 51)); let o1 := c1 &&& M51
  let c3 := u128 (c3 + (c2 >>> 51)); let o2 := c2 &&& M51
  let c4 := u128 (c4 + (c3 >>> 51)); let o3 := c3 &&& M51
  let carry := u64 (c4 >>> 51); let o4 := c4 &&& M51
  let o0 := u64 (o0 + 19 * carry)
  let o1 := u64 (o1 + (o0 >>> 51)); let o0 := o0 &&& M51
  Fe.ofLimbs o0 o1 o2 o3 o4

/-- `fe_mul`: schoolbook product with the columns at and above 2^255 folded back by 19, carried limb by limb
(R156). -/
def feMul (a b : Fe) : Fe :=
  let a0 := a.l0.toNat; let a1 := a.l1.toNat; let a2 := a.l2.toNat; let a3 := a.l3.toNat; let a4 := a.l4.toNat
  let b0 := b.l0.toNat; let b1 := b.l1.toNat; let b2 := b.l2.toNat; let b3 := b.l3.toNat; let b4 := b.l4.toNat
  let d1 := u64 (19 * b1); let d2 := u64 (19 * b2); let d3 := u64 (19 * b3); let d4 := u64 (19 * b4)
  feCarry
    (u128 (a0 * b0 + a4 * d1 + a3 * d2 + a2 * d3 + a1 * d4))
    (u128 (a1 * b0 + a0 * b1 + a4 * d2 + a3 * d3 + a2 * d4))
    (u128 (a2 * b0 + a1 * b1 + a0 * b2 + a4 * d3 + a3 * d4))
    (u128 (a3 * b0 + a2 * b1 + a1 * b2 + a0 * b3 + a4 * d4))
    (u128 (a4 * b0 + a3 * b1 + a2 * b2 + a1 * b3 + a0 * b4))

/-- `fe_sq` (R157). -/
def feSq (a : Fe) : Fe := feMul a a

/-- `fe_sq2`: every limb of the square doubled (R157). -/
def feSq2 (a : Fe) : Fe :=
  let s := feSq a
  Fe.ofLimbs (2 * s.l0.toNat) (2 * s.l1.toNat) (2 * s.l2.toNat) (2 * s.l3.toNat) (2 * s.l4.toNat)

/-- `fe_pow2k`: `k` successive squarings (R157). -/
def fePow2k (a : Fe) : Nat → Fe
  | 0 => a
  | k + 1 => strictFe (feSq a) fun b => fePow2k b k

/-! ### Bytes -/

/-- `LE(b)`: the integer of a byte string, lowest address first (00_scope.md R7). -/
def le : List Byte → Nat
  | [] => 0
  | b :: bs => b.toNat + 256 * le bs

/-- The `n` bytes of an integer, lowest first; `LE32` is `leBytes 32` (00_scope.md R7). -/
def leBytes : Nat → Nat → List Byte
  | 0, _ => []
  | n + 1, v => BitVec.ofNat 8 v :: leBytes n (v / 256)

/-- The canonical limbs of `fe_tobytes` (R158): weak reduction, the overflow carry `q`, the subtraction of `q p`
and the carries, the top one dropped. -/
def feCanonLimbs (x : Fe) : Fe :=
  let w := feWeak x
  let l0 := w.l0.toNat; let l1 := w.l1.toNat; let l2 := w.l2.toNat; let l3 := w.l3.toNat; let l4 := w.l4.toNat
  let q := u64 (l0 + 19) >>> 51
  let q := u64 (l1 + q) >>> 51
  let q := u64 (l2 + q) >>> 51
  let q := u64 (l3 + q) >>> 51
  let q := u64 (l4 + q) >>> 51
  let l0 := u64 (l0 + 19 * q)
  let l1 := u64 (l1 + (l0 >>> 51)); let l0 := l0 &&& M51
  let l2 := u64 (l2 + (l1 >>> 51)); let l1 := l1 &&& M51
  let l3 := u64 (l3 + (l2 >>> 51)); let l2 := l2 &&& M51
  let l4 := u64 (l4 + (l3 >>> 51)); let l3 := l3 &&& M51
  let l4 := l4 &&& M51
  Fe.ofLimbs l0 l1 l2 l3 l4

/-- Byte lanes: the low byte of a limb shifted right by each of the given amounts (R158). -/
def lanes (l : BitVec 64) (shifts : List Nat) : List Byte :=
  shifts.map fun k => (l >>> k).setWidth 8

/-- A byte that mixes two limbs: the low limb shifted right, the next one shifted left (R158). -/
def mixed (lo : BitVec 64) (r : Nat) (hi : BitVec 64) (s : Nat) : Byte :=
  ((lo >>> r) ||| (hi <<< s)).setWidth 8

/-- `fe_tobytes`: the canonical 32-byte encoding, with the byte lanes of R158's table. -/
def feToBytes (x : Fe) : List Byte :=
  strictFe (feCanonLimbs x) fun h =>
  lanes h.l0 [0, 8, 16, 24, 32, 40] ++ [mixed h.l0 48 h.l1 3] ++
  lanes h.l1 [5, 13, 21, 29, 37] ++ [mixed h.l1 45 h.l2 6] ++
  lanes h.l2 [2, 10, 18, 26, 34, 42] ++ [mixed h.l2 50 h.l3 1] ++
  lanes h.l3 [7, 15, 23, 31, 39] ++ [mixed h.l3 47 h.l4 4] ++
  lanes h.l4 [4, 12, 20, 28, 36, 44]

/-- `load8(k) = LE(s[k..k+7])` (R159). -/
def load8 (s : List Byte) (k : Nat) : Nat := le ((s.drop k).take 8)

/-- `fe_frombytes`: bit 255 is ignored, nothing is reduced (R159). -/
def feFromBytes (s : List Byte) : Fe :=
  Fe.ofLimbs (load8 s 0 &&& M51) (load8 s 6 >>> 3 &&& M51) (load8 s 12 >>> 6 &&& M51)
    (load8 s 19 >>> 1 &&& M51) (load8 s 24 >>> 12 &&& M51)

/-! ### Exponentiation chains -/

/-- `fe_pow22501`: the pair `(x^(2^250 − 1), x^11)` by the chain of R161. -/
def fePow22501 (x : Fe) : Fe × Fe :=
  strictFe (feSq x) fun t0 =>
  strictFe (feSq (feSq t0)) fun t1 =>
  strictFe (feMul x t1) fun t2 =>
  strictFe (feMul t0 t2) fun t3 =>
  strictFe (feSq t3) fun t4 =>
  strictFe (feMul t2 t4) fun t5 =>
  strictFe (fePow2k t5 5) fun t6 =>
  strictFe (feMul t6 t5) fun t7 =>
  strictFe (fePow2k t7 10) fun t8 =>
  strictFe (feMul t8 t7) fun t9 =>
  strictFe (fePow2k t9 20) fun t10 =>
  strictFe (feMul t10 t9) fun t11 =>
  strictFe (fePow2k t11 10) fun t12 =>
  strictFe (feMul t12 t7) fun t13 =>
  strictFe (fePow2k t13 50) fun t14 =>
  strictFe (feMul t14 t13) fun t15 =>
  strictFe (fePow2k t15 100) fun t16 =>
  strictFe (feMul t16 t15) fun t17 =>
  strictFe (fePow2k t17 50) fun t18 =>
  strictFe (feMul t18 t13) fun t19 =>
  (t19, t3)

/-- `fe_invert`: `x^(p−2)`, by five more squarings and one multiplication (R162). -/
def feInvert (x : Fe) : Fe :=
  feMul (fePow2k (fePow22501 x).1 5) (fePow22501 x).2

/-- `fe_pow_p58`: `x^((p−5)/8)` (R162). -/
def fePowP58 (x : Fe) : Fe :=
  feMul x (fePow2k (fePow22501 x).1 2)

/-! ### Predicates and selection -/

/-- `fe_is_negative`: bit 0 of the first byte of the canonical encoding (R163). -/
def feIsNegative (x : Fe) : Bool := ((feToBytes x).headD 0).getLsbD 0

/-- The OR of all the bytes, tested for zero without an early exit (R163). -/
def allZero (bs : List Byte) : Bool := bs.foldl (· ||| ·) 0 == 0

/-- `fe_is_zero`: all 32 bytes of the canonical encoding are 0 (R163). -/
def feIsZero (x : Fe) : Bool := allZero (feToBytes x)

/-- Equality of two byte strings: the OR of the XOR of all byte pairs is zero (R163). -/
def bytesEq (a b : List Byte) : Bool := allZero (List.zipWith (· ^^^ ·) a b)

/-- `fe_ct_eq`: the canonical encodings are equal (R163). -/
def feCtEq (x y : Fe) : Bool := bytesEq (feToBytes x) (feToBytes y)

/-- The mask of a choice: all ones for 1, all zeros for 0 (40_system_choice.md R132). -/
def choiceMask (c : Bool) : BitVec 64 := 0 - BitVec.ofNat 64 c.toNat

/-- The select of one limb: `x XOR (m AND (x XOR y))` (40_system_choice.md R132). -/
def limbSelect (x y : BitVec 64) (c : Bool) : BitVec 64 := x ^^^ (choiceMask c &&& (x ^^^ y))

/-- `fe_select`: `a` for choice 0, `b` for choice 1 (R164). -/
def feSelect (a b : Fe) (c : Bool) : Fe :=
  ⟨limbSelect a.l0 b.l0 c, limbSelect a.l1 b.l1 c, limbSelect a.l2 b.l2 c, limbSelect a.l3 b.l3 c,
    limbSelect a.l4 b.l4 c⟩

/-- `fe_cassign`: the other operand is assigned when the choice is 1 (R164). -/
def feCassign (x other : Fe) (c : Bool) : Fe := feSelect x other c

/-- `fe_cneg`: the negation is always computed, and selected when the choice is 1 (R164). -/
def feCneg (x : Fe) (c : Bool) : Fe := feSelect x (feNeg x) c

/-! ### The square root of a ratio -/

/-- `fe_sqrt_ratio_i(u, v)`: whether `u/v` is a square, and the nonnegative root of `u/v` or of `i u/v` (R165).
`is_valid` takes the matches against `u` and `−u` (90_conflicts.md C9). -/
def feSqrtRatio (u v : Fe) : Bool × Fe :=
  let v3 := feMul (feSq v) v
  let v7 := feMul (feSq v3) v
  strictFe (feMul (feMul u v3) (fePowP58 (feMul u v7))) fun r =>
  strictFe (feMul v (feSq r)) fun check =>
  let correct := feCtEq check u
  let flipped := feCtEq check (feNeg u)
  let flippedI := feCtEq check (feMul (feNeg u) feSqrtM1)
  let rPrime := feMul feSqrtM1 r
  strictFe (feSelect r rPrime (flipped || flippedI)) fun r =>
  (correct || flipped, feSelect r (feNeg r) (feIsNegative r))

end Sys2Proof.Machine
end

