-- ==== Sys2Proof/Machine/Ops.lean ====
section
/-! DEFINITION. The named operations over memory and registers, the retirement of a command, fault entry and the
resets: 20_memory.md R71 to R74, 10_state.md R44 and R50, 60_exceptions.md R410, 70_reset_and_hazards.md R431 and
R432, and the execution template of 40_system_choice.md R130. -/
namespace Sys2Proof.Machine

/-! ### Operand memory (20_memory.md R70 to R73) -/

/-- What a byte of ORAM that the list does not name reads as: its reset content 0 (10_state.md R58). -/
def unlisted : Byte := 0

/-- The byte at an address. -/
def readByte : Memory → Nat → Byte
  | [], _ => unlisted
  | (k, v) :: m, a => if k = a then v else readByte m a

/-- A cell in front of a memory, left out where the byte is the one an unlisted address reads as. -/
def consCell (a : Nat) (b : Byte) (m : Memory) : Memory := if b = unlisted then m else (a, b) :: m

/-- The memory with one byte written, in canonical form again. -/
def writeByte : Memory → Nat → Byte → Memory
  | [], a, b => consCell a b []
  | (k, v) :: m, a, b =>
    if k < a then (k, v) :: writeByte m a b
    else if k = a then consCell a b m
    else consCell a b ((k, v) :: m)

/-- The canonical form: addresses strictly rising, no cell that says what an unlisted address reads as. -/
def Memory.wf : Memory → Bool
  | [] => true
  | [(_, v)] => v ≠ unlisted
  | (k, v) :: (k', v') :: m => v ≠ unlisted ∧ k < k' ∧ Memory.wf ((k', v') :: m)

/-- `MemRead(addr, n)`: the `n` bytes from an address on (R72). -/
def memRead (m : Memory) : (a n : Nat) → List Byte
  | _, 0 => []
  | a, n + 1 => readByte m a :: memRead m (a + 1) n

/-- `MemWrite(addr, n, v)`: the bytes of `v` from an address on, all others unchanged (R73). -/
def memWrite (m : Memory) : Nat → List Byte → Memory
  | _, [] => m
  | a, b :: bs => memWrite (writeByte m a b) (a + 1) bs

/-- The byte address of a slot, `EA = 32 * imm` (R71). -/
def slotAddr (slot : Imm) : Nat := 32 * slot.toNat

/-- The bytes of `n` slots from a slot on (R71, R72). -/
def State.readSlots (s : State) (slot : Imm) (n : Nat) : List Byte := memRead s.oram (slotAddr slot) (32 * n)

/-- The state with bytes stored from a slot on (R71, R73). -/
def State.writeSlots (s : State) (slot : Imm) (v : List Byte) : State :=
  { s with oram := memWrite s.oram (slotAddr slot) v }

/-! ### Register files (10_state.md R31, R34, R36, R39, R40)
A read answers `none` for an EMPTY register; no register is hard-wired or aliased (R31). -/

/-- The content of `F[n]`. -/
def State.readF (s : State) (n : RegNo) : Option Fe := s.F.getD n.toNat none
/-- The content of `S[n]`. -/
def State.readS (s : State) (n : RegNo) : Option Scalar := s.S.getD n.toNat none
/-- The content of `P[n]`. -/
def State.readP (s : State) (n : RegNo) : Option Point := s.P.getD n.toNat none
/-- The content of `C[n]`. -/
def State.readC (s : State) (n : RegNo) : Option Bool := s.C.getD n.toNat none
/-- The content of `DG[n]`. -/
def State.readDG (s : State) (n : RegNo) : Option Digits := s.DG.getD n.toNat none

/-- `F[n] <- v`. -/
def State.writeF (s : State) (n : RegNo) (v : Fe) : State := { s with F := s.F.set n.toNat (some v) }
/-- `S[n] <- v`. -/
def State.writeS (s : State) (n : RegNo) (v : Scalar) : State := { s with S := s.S.set n.toNat (some v) }
/-- `P[n] <- v`, where `none` makes the register EMPTY (43_point.md R273). -/
def State.setP (s : State) (n : RegNo) (v : Option Point) : State := { s with P := s.P.set n.toNat v }
/-- `P[n] <- v`. -/
def State.writeP (s : State) (n : RegNo) (v : Point) : State := s.setP n (some v)
/-- `C[n] <- v`. -/
def State.writeC (s : State) (n : RegNo) (v : Bool) : State := { s with C := s.C.set n.toNat (some v) }
/-- `DG[n] <- v`. -/
def State.writeDG (s : State) (n : RegNo) (v : Digits) : State := { s with DG := s.DG.set n.toNat (some v) }

/-! ### Retirement, faults, reset -/

/-- The retirement of a command: `cmdidx` counts it, wrapping modulo 2^32 (10_state.md R44). -/
def State.retire (s : State) : State := { s with cmdidx := s.cmdidx + 1 }

end Sys2Proof.Machine

namespace Sys2Proof

/-- The numeric code of a fault, as FAULTCODE reads it (60_exceptions.md R401). -/
def FaultCode.code : FaultCode → BitVec 8
  | .illegalOpcode => 1
  | .illegalField => 2
  | .slotRange => 3
  | .unwritten => 4
  | .wrongType => 5
  | .msmFull => 6
  | .msmEmpty => 7
  | .elligator => 8

end Sys2Proof

namespace Sys2Proof.Machine

/-- Fault entry, in full: the record is written and nothing else changes (60_exceptions.md R410, 10_state.md R50). -/
def State.takeFault (s : State) (k : FaultCode) (w : Word) : State :=
  { s with fault := true, faultcode := k.code, faultcmd := w, faultidx := s.cmdidx }

/-- The effect of either reset on the block (10_state.md R58, 70_reset_and_hazards.md R430): the reset state of the
instance; the host's side of the bus is not the block's. It is the only exit from a fault (60_exceptions.md R411). -/
def State.resetBlock (s : State) : State :=
  { State.resetOf s.params with resetIn := s.resetIn, bus := s.bus, readLog := s.readLog }

/-- The execution template of 40_system_choice.md R130 for a command `i` whose steps 2 to 5 are `body`: the checks
of step 1; then the body's state retires, or the fault is taken with the command word `w = encode i` and nothing
else is written. -/
def command (i : Instr) (s : State) (body : Except FaultCode State) : Result :=
  match i.check s.params with
  | some k => .next (s.takeFault k (encode i))
  | none =>
    match body with
    | .ok t => .next t.retire
    | .error k => .next (s.takeFault k (encode i))

end Sys2Proof.Machine
end

