-- ==== Sys2Proof/Machine/PointArith.lean ====
section
/-! DEFINITION. The point formulas of 43_point.md on components, each evaluated with the datapath of
Machine/Field.lean as R264 says: conversions, doubling, addition and subtraction on the staged forms, negation,
selection, compression, decompression and the composites. -/
namespace Sys2Proof.Machine

/-! ### Conversions -/

/-- `EXT` to `PROJ` (R275). -/
def e2p (e : Ext) : Proj := ⟨e.X, e.Y, e.Z⟩

/-- `EXT` to `PNIELS` (R276). -/
def e2pn (e : Ext) : PNiels := ⟨feAdd e.Y e.X, feSub e.Y e.X, e.Z, feMul e.T feEdwardsD2⟩

/-- The affine coordinates `(X/Z, Y/Z)` of an `EXT` point, by one inversion (R274, R277). -/
def affine (e : Ext) : Fe × Fe :=
  strictFe (feInvert e.Z) fun r => (feMul e.X r, feMul e.Y r)

/-- `EXT` to `ANIELS` (R277). -/
def e2an (e : Ext) : ANiels :=
  let x := (affine e).1
  let y := (affine e).2
  ⟨feAdd y x, feSub y x, feMul (feMul x y) feEdwardsD2⟩

/-- `PROJ` to `EXT` (R278). -/
def p2e (e : Proj) : Ext := ⟨feMul e.X e.Z, feMul e.Y e.Z, feSq e.Z, feMul e.X e.Y⟩

/-- `COMPL` to `PROJ` (R279). -/
def c2p (e : Compl) : Proj := ⟨feMul e.X e.T, feMul e.Y e.Z, feMul e.Z e.T⟩

/-- `COMPL` to `EXT` (R280). -/
def c2e (e : Compl) : Ext := ⟨feMul e.X e.T, feMul e.Y e.Z, feMul e.Z e.T, feMul e.X e.Y⟩

/-! ### Doubling, addition, subtraction -/

/-- Doubling, `PROJ` to `COMPL` (R281). -/
def dbl (e : Proj) : Compl :=
  let XX := feSq e.X
  let YY := feSq e.Y
  let ZZ2 := feSq2 e.Z
  let S := feSq (feAdd e.X e.Y)
  let YpX := feAdd YY XX
  let YmX := feSub YY XX
  ⟨feSub S YpX, YpX, YmX, feSub ZZ2 YmX⟩

/-- The last lines of an addition: `COMPL (PP − MM, PP + MM, ZZ2 + TT, ZZ2 − TT)` (R282). -/
def addTail (PP MM TT ZZ2 : Fe) : Compl := ⟨feSub PP MM, feAdd PP MM, feAdd ZZ2 TT, feSub ZZ2 TT⟩

/-- The last lines of a subtraction: `COMPL (PM − MP, PM + MP, ZZ2 − TT, ZZ2 + TT)` (R283). -/
def subTail (PM MP TT ZZ2 : Fe) : Compl := ⟨feSub PM MP, feAdd PM MP, feSub ZZ2 TT, feAdd ZZ2 TT⟩

/-- `EXT + PNIELS` (R282). -/
def addPN (e : Ext) (n : PNiels) : Compl :=
  let ZZ := feMul e.Z n.Z
  addTail (feMul (feAdd e.Y e.X) n.YpX) (feMul (feSub e.Y e.X) n.YmX) (feMul e.T n.T2d) (feAdd ZZ ZZ)

/-- `EXT + ANIELS` (R282). -/
def addAN (e : Ext) (n : ANiels) : Compl :=
  addTail (feMul (feAdd e.Y e.X) n.ypx) (feMul (feSub e.Y e.X) n.ymx) (feMul e.T n.xy2d) (feAdd e.Z e.Z)

/-- `EXT − PNIELS` (R283). -/
def subPN (e : Ext) (n : PNiels) : Compl :=
  let ZZ := feMul e.Z n.Z
  subTail (feMul (feAdd e.Y e.X) n.YmX) (feMul (feSub e.Y e.X) n.YpX) (feMul e.T n.T2d) (feAdd ZZ ZZ)

/-- `EXT − ANIELS` (R283). -/
def subAN (e : Ext) (n : ANiels) : Compl :=
  subTail (feMul (feAdd e.Y e.X) n.ymx) (feMul (feSub e.Y e.X) n.ypx) (feMul e.T n.xy2d) (feAdd e.Z e.Z)

/-- `EXT + EXT` (R292). -/
def eadd (a b : Ext) : Ext := c2e (addPN a (e2pn b))
/-- `EXT − EXT` (R293). -/
def esub (a b : Ext) : Ext := c2e (subPN a (e2pn b))
/-- `[2] EXT` (R294). -/
def edbl (a : Ext) : Ext := c2e (dbl (e2p a))
/-- `[8] EXT`, three doublings staged through `PROJ` (R291). -/
def mulcof (a : Ext) : Ext := c2e (dbl (c2p (dbl (c2p (dbl (e2p a))))))

/-! ### Negation and selection -/

/-- Negation of an `EXT` point (R284). -/
def negExt (e : Ext) : Ext := ⟨feNeg e.X, e.Y, e.Z, feNeg e.T⟩
/-- Negation of a `PNIELS` point (R284). -/
def negPN (n : PNiels) : PNiels := ⟨n.YmX, n.YpX, n.Z, feNeg n.T2d⟩
/-- Negation of an `ANIELS` point (R284). -/
def negAN (n : ANiels) : ANiels := ⟨n.ymx, n.ypx, feNeg n.xy2d⟩

/-- Component-wise select of `EXT` points, `a` for choice 0 (R285). -/
def selExt (a b : Ext) (c : Bool) : Ext :=
  ⟨feSelect a.X b.X c, feSelect a.Y b.Y c, feSelect a.Z b.Z c, feSelect a.T b.T c⟩
/-- Component-wise select of `PNIELS` points (R285). -/
def selPN (a b : PNiels) (c : Bool) : PNiels :=
  ⟨feSelect a.YpX b.YpX c, feSelect a.YmX b.YmX c, feSelect a.Z b.Z c, feSelect a.T2d b.T2d c⟩
/-- Component-wise select of `ANIELS` points (R285). -/
def selAN (a b : ANiels) (c : Bool) : ANiels :=
  ⟨feSelect a.ypx b.ypx c, feSelect a.ymx b.ymx c, feSelect a.xy2d b.xy2d c⟩

/-- The conditional negation of a `PNIELS` point: the negated form is always computed (R286). -/
def cnegPN (n : PNiels) (c : Bool) : PNiels := selPN n (negPN n) c

/-- Group negation of a point register's content; `PROJ` and `COMPL` have none (R284). -/
def Point.negate : Point → Except FaultCode Point
  | .ext e => .ok (.ext (negExt e))
  | .pniels n => .ok (.pniels (negPN n))
  | .aniels n => .ok (.aniels (negAN n))
  | .proj _ => .error .wrongType
  | .compl _ => .error .wrongType

/-- Select between two contents of one tag among `EXT`, `PNIELS`, `ANIELS` (R285, R287). -/
def Point.select : Point → Point → Bool → Except FaultCode Point
  | .ext a, .ext b, c => .ok (.ext (selExt a b c))
  | .pniels a, .pniels b, c => .ok (.pniels (selPN a b c))
  | .aniels a, .aniels b, c => .ok (.aniels (selAN a b c))
  | _, _, _ => .error .wrongType

/-- Conditional negation of a content: the negation, then the select by the choice (R286). -/
def Point.condNegate (q : Point) (c : Bool) : Except FaultCode Point :=
  match q.negate with
  | .ok n => q.select n c
  | .error k => .error k

/-! ### Compression, decompression, predicates -/

/-- The 32 bytes of a compressed point: `y` with the sign of `x` in bit 7 of the last byte (R274). -/
def compress (e : Ext) : List Byte :=
  let x := (affine e).1
  let s := feToBytes (affine e).2
  s.set 31 (s.getD 31 0 ||| BitVec.ofNat 8 (feIsNegative x).toNat <<< 7)

/-- Decompression of 32 bytes: none where the encoding is that of no point (R273). `reject` is
DECOMP_REJECT_NEG_ZERO. -/
def decompress (reject : Bool) (s : List Byte) : Option Ext :=
  let sign := (s.getD 31 0).getLsbD 7
  let y := feFromBytes s
  let yy := feSq y
  let u := feSub yy feOne
  let v := feAdd (feMul feEdwardsD yy) feOne
  let r := feSqrtRatio u v
  if r.1 = false then none
  else if sign = true ∧ feIsZero r.2 = true ∧ reject = true then none
  else
    strictFe (feCneg r.2 sign) fun x =>
    strictFe y fun y =>
    some ⟨x, y, feOne, feMul x y⟩

/-- Equality of points by their compressed forms (R288). -/
def pointEq (a b : Ext) : Bool := bytesEq (compress a) (compress b)

/-- The identity test: `X = 0` and `Y = Z` (R290). -/
def isIdent (e : Ext) : Bool := feIsZero e.X && feCtEq e.Y e.Z

/-- The small-order test: 8 times the point is the identity (R289). -/
def isSmall (e : Ext) : Bool := isIdent (mulcof e)

/-! ### Strict evaluation of points (see `strictFe`) -/

/-- `k e`, with the components computed first. -/
def strictExt {α : Type} (e : Ext) (k : Ext → α) : α :=
  strictFe e.X fun x => strictFe e.Y fun y => strictFe e.Z fun z => strictFe e.T fun t => k ⟨x, y, z, t⟩
/-- `k e`, with the components computed first. -/
def strictProj {α : Type} (e : Proj) (k : Proj → α) : α :=
  strictFe e.X fun x => strictFe e.Y fun y => strictFe e.Z fun z => k ⟨x, y, z⟩
/-- `k e`, with the components computed first. -/
def strictCompl {α : Type} (e : Compl) (k : Compl → α) : α :=
  strictFe e.X fun x => strictFe e.Y fun y => strictFe e.Z fun z => strictFe e.T fun t => k ⟨x, y, z, t⟩
/-- `k n`, with the components computed first. -/
def strictPN {α : Type} (n : PNiels) (k : PNiels → α) : α :=
  strictFe n.YpX fun a => strictFe n.YmX fun b => strictFe n.Z fun z => strictFe n.T2d fun t => k ⟨a, b, z, t⟩

end Sys2Proof.Machine
end

