-- ==== Sys2Proof/Machine/Operands.lean ====
section
/-! DEFINITION. Source operands. A source register that is EMPTY raises UNWRITTEN (60_exceptions.md R404); a point
source with a tag the command does not accept raises TYPE (R405); a meaning reads all its registers in the field
order `a`, `b`, `c`, `d` and only then looks at the tags, in the same order (R408). Beside them the roles of the
fields of every command: sources, destinations and stored bytes (30_encoding.md R105, R107). -/
namespace Sys2Proof.Machine

/-- The content of a source register, or UNWRITTEN (R404). -/
def source {α : Type} : Option α → Except FaultCode α
  | some v => .ok v
  | none => .error .unwritten

/-- A field source. -/
def State.srcF (s : State) (n : RegNo) : Except FaultCode Fe := source (s.readF n)
/-- A scalar source. -/
def State.srcS (s : State) (n : RegNo) : Except FaultCode Scalar := source (s.readS n)
/-- A point source, its tag not yet looked at. -/
def State.srcP (s : State) (n : RegNo) : Except FaultCode Point := source (s.readP n)
/-- A choice source. -/
def State.srcC (s : State) (n : RegNo) : Except FaultCode Bool := source (s.readC n)
/-- A digit-buffer source. -/
def State.srcDG (s : State) (n : RegNo) : Except FaultCode Digits := source (s.readDG n)

/-- A point source that must be `EXT` (R405). -/
def Point.asExt : Point → Except FaultCode Ext
  | .ext e => .ok e
  | _ => .error .wrongType

/-- A point source that must be `PROJ` (R405). -/
def Point.asProj : Point → Except FaultCode Proj
  | .proj e => .ok e
  | _ => .error .wrongType

/-- A point source that must be `COMPL` (R405). -/
def Point.asCompl : Point → Except FaultCode Compl
  | .compl e => .ok e
  | _ => .error .wrongType

/-- The second source of PT_ADD: `PNIELS` or `ANIELS`, added to the first (R405, 43_point.md R282). -/
def Point.addTo (q : Point) (e : Ext) : Except FaultCode Compl :=
  match q with
  | .pniels n => .ok (addPN e n)
  | .aniels n => .ok (addAN e n)
  | _ => .error .wrongType

/-- The second source of PT_SUB: `PNIELS` or `ANIELS`, subtracted from the first (R405, 43_point.md R283). -/
def Point.subFrom (q : Point) (e : Ext) : Except FaultCode Compl :=
  match q with
  | .pniels n => .ok (subPN e n)
  | .aniels n => .ok (subAN e n)
  | _ => .error .wrongType

/-! ### Roles of the fields (30_encoding.md R105, R107) -/

/-- A register of one of the five files. -/
inductive RegRef where
  | f (n : RegNo)
  | s (n : RegNo)
  | p (n : RegNo)
  | c (n : RegNo)
  | dg (n : RegNo)
deriving DecidableEq, Repr

/-- Whether a register is EMPTY. -/
def State.isEmpty (s : State) : RegRef → Bool
  | .f n => (s.readF n).isNone
  | .s n => (s.readS n).isNone
  | .p n => (s.readP n).isNone
  | .c n => (s.readC n).isNone
  | .dg n => (s.readDG n).isNone

/-- The source registers of a command, "src" and "src+dest", in the order `a`, `b`, `c`, `d` (R404). -/
def sources : Instr → List RegRef
  | .nop => []
  | .chSet _ _ => []
  | .chNot _ a => [.c a]
  | .chAnd _ a b => [.c a, .c b]
  | .chOr _ a b => [.c a, .c b]
  | .chXor _ a b => [.c a, .c b]
  | .feLd _ _ => []
  | .feSt a _ => [.f a]
  | .feConst _ _ => []
  | .feMov _ a => [.f a]
  | .feAdd _ a b => [.f a, .f b]
  | .feSub _ a b => [.f a, .f b]
  | .feNeg _ a => [.f a]
  | .feMul _ a b => [.f a, .f b]
  | .feSq _ a => [.f a]
  | .feSq2 _ a => [.f a]
  | .fePow2k _ a _ => [.f a]
  | .feInv _ a => [.f a]
  | .fePowp58 _ a => [.f a]
  | .fePow22501 _ _ b => [.f b]
  | .feSqrtri _ a b _ => [.f a, .f b]
  | .feRed _ a => [.f a]
  | .feCsel _ a b c => [.f a, .f b, .c c]
  | .feCneg d c => [.c c, .f d]
  | .feCassign d a c => [.f a, .c c, .f d]
  | .feEq _ a b => [.f a, .f b]
  | .feIsneg _ a => [.f a]
  | .feIszero _ a => [.f a]
  | .scLd _ _ => []
  | .scLdw _ _ => []
  | .scSt a _ => [.s a]
  | .scMov _ a => [.s a]
  | .scAdd _ a b => [.s a, .s b]
  | .scSub _ a b => [.s a, .s b]
  | .scMul _ a b => [.s a, .s b]
  | .scNeg _ a => [.s a]
  | .scRed _ a => [.s a]
  | .scIscanon _ a => [.s a]
  | .scMmul _ a b => [.s a, .s b]
  | .scTomont _ a => [.s a]
  | .scFrommont _ a => [.s a]
  | .scRadix16 _ a => [.s a]
  | .scRadix2w _ a _ => [.s a]
  | .scNaf _ a _ => [.s a]
  | .dgSt a _ => [.dg a]
  | .ptIdent _ => []
  | .ptBase _ => []
  | .ptMov _ a => [.p a]
  | .ptDecomp _ _ _ => []
  | .ptComp a _ => [.p a]
  | .ptE2p _ a => [.p a]
  | .ptE2pn _ a => [.p a]
  | .ptE2an _ a => [.p a]
  | .ptP2e _ a => [.p a]
  | .ptC2p _ a => [.p a]
  | .ptC2e _ a => [.p a]
  | .ptDbl _ a => [.p a]
  | .ptAdd _ a b => [.p a, .p b]
  | .ptSub _ a b => [.p a, .p b]
  | .ptNeg _ a => [.p a]
  | .ptCsel _ a b c => [.p a, .p b, .c c]
  | .ptCneg d c => [.c c, .p d]
  | .ptCassign d a c => [.p a, .c c, .p d]
  | .ptEq _ a b => [.p a, .p b]
  | .ptIssmall _ a => [.p a]
  | .ptIsident _ a => [.p a]
  | .ptMulcof _ a => [.p a]
  | .ptEadd _ a b => [.p a, .p b]
  | .ptEsub _ a b => [.p a, .p b]
  | .ptEdbl _ a => [.p a]
  | .ptSmul _ a b => [.p a, .s b]
  | .ptDsmb _ a b c => [.s a, .p b, .s c]
  | .msmClr => []
  | .msmPush a b => [.s a, .p b]
  | .msmRun _ => []
  | .ell2 _ a => [.f a]
  | .mtoe _ a _ => [.f a]

/-- The destination registers of a command, "dest" and "src+dest". -/
def dests : Instr → List RegRef
  | .nop => []
  | .chSet d _ => [.c d]
  | .chNot d _ => [.c d]
  | .chAnd d _ _ => [.c d]
  | .chOr d _ _ => [.c d]
  | .chXor d _ _ => [.c d]
  | .feLd d _ => [.f d]
  | .feSt _ _ => []
  | .feConst d _ => [.f d]
  | .feMov d _ => [.f d]
  | .feAdd d _ _ => [.f d]
  | .feSub d _ _ => [.f d]
  | .feNeg d _ => [.f d]
  | .feMul d _ _ => [.f d]
  | .feSq d _ => [.f d]
  | .feSq2 d _ => [.f d]
  | .fePow2k d _ _ => [.f d]
  | .feInv d _ => [.f d]
  | .fePowp58 d _ => [.f d]
  | .fePow22501 d a _ => [.f d, .f a]
  | .feSqrtri d _ _ c => [.f d, .c c]
  | .feRed d _ => [.f d]
  | .feCsel d _ _ _ => [.f d]
  | .feCneg d _ => [.f d]
  | .feCassign d _ _ => [.f d]
  | .feEq d _ _ => [.c d]
  | .feIsneg d _ => [.c d]
  | .feIszero d _ => [.c d]
  | .scLd d _ => [.s d]
  | .scLdw d _ => [.s d]
  | .scSt _ _ => []
  | .scMov d _ => [.s d]
  | .scAdd d _ _ => [.s d]
  | .scSub d _ _ => [.s d]
  | .scMul d _ _ => [.s d]
  | .scNeg d _ => [.s d]
  | .scRed d _ => [.s d]
  | .scIscanon d _ => [.c d]
  | .scMmul d _ _ => [.s d]
  | .scTomont d _ => [.s d]
  | .scFrommont d _ => [.s d]
  | .scRadix16 d _ => [.dg d]
  | .scRadix2w d _ _ => [.dg d]
  | .scNaf d _ _ => [.dg d]
  | .dgSt _ _ => []
  | .ptIdent d => [.p d]
  | .ptBase d => [.p d]
  | .ptMov d _ => [.p d]
  | .ptDecomp d a _ => [.p d, .c a]
  | .ptComp _ _ => []
  | .ptE2p d _ => [.p d]
  | .ptE2pn d _ => [.p d]
  | .ptE2an d _ => [.p d]
  | .ptP2e d _ => [.p d]
  | .ptC2p d _ => [.p d]
  | .ptC2e d _ => [.p d]
  | .ptDbl d _ => [.p d]
  | .ptAdd d _ _ => [.p d]
  | .ptSub d _ _ => [.p d]
  | .ptNeg d _ => [.p d]
  | .ptCsel d _ _ _ => [.p d]
  | .ptCneg d _ => [.p d]
  | .ptCassign d _ _ => [.p d]
  | .ptEq d _ _ => [.c d]
  | .ptIssmall d _ => [.c d]
  | .ptIsident d _ => [.c d]
  | .ptMulcof d _ => [.p d]
  | .ptEadd d _ _ => [.p d]
  | .ptEsub d _ _ => [.p d]
  | .ptEdbl d _ => [.p d]
  | .ptSmul d _ _ => [.p d]
  | .ptDsmb d _ _ _ => [.p d]
  | .msmClr => []
  | .msmPush _ _ => []
  | .msmRun d => [.p d]
  | .ell2 d _ => [.f d]
  | .mtoe d _ _ => [.p d]

/-- The bytes of ORAM a command stores to: the first address and the count (20_memory.md R71, R77, R87); none for
a command that stores nothing. -/
def storeSpan : Instr → Option (Nat × Nat)
  | .nop => none
  | .chSet _ _ => none
  | .chNot _ _ => none
  | .chAnd _ _ _ => none
  | .chOr _ _ _ => none
  | .chXor _ _ _ => none
  | .feLd _ _ => none
  | .feSt _ imm => some (slotAddr imm, 32)
  | .feConst _ _ => none
  | .feMov _ _ => none
  | .feAdd _ _ _ => none
  | .feSub _ _ _ => none
  | .feNeg _ _ => none
  | .feMul _ _ _ => none
  | .feSq _ _ => none
  | .feSq2 _ _ => none
  | .fePow2k _ _ _ => none
  | .feInv _ _ => none
  | .fePowp58 _ _ => none
  | .fePow22501 _ _ _ => none
  | .feSqrtri _ _ _ _ => none
  | .feRed _ _ => none
  | .feCsel _ _ _ _ => none
  | .feCneg _ _ => none
  | .feCassign _ _ _ => none
  | .feEq _ _ _ => none
  | .feIsneg _ _ => none
  | .feIszero _ _ => none
  | .scLd _ _ => none
  | .scLdw _ _ => none
  | .scSt _ imm => some (slotAddr imm, 32)
  | .scMov _ _ => none
  | .scAdd _ _ _ => none
  | .scSub _ _ _ => none
  | .scMul _ _ _ => none
  | .scNeg _ _ => none
  | .scRed _ _ => none
  | .scIscanon _ _ => none
  | .scMmul _ _ _ => none
  | .scTomont _ _ => none
  | .scFrommont _ _ => none
  | .scRadix16 _ _ => none
  | .scRadix2w _ _ _ => none
  | .scNaf _ _ _ => none
  | .dgSt _ imm => some (slotAddr imm, 256)
  | .ptIdent _ => none
  | .ptBase _ => none
  | .ptMov _ _ => none
  | .ptDecomp _ _ _ => none
  | .ptComp _ imm => some (slotAddr imm, 32)
  | .ptE2p _ _ => none
  | .ptE2pn _ _ => none
  | .ptE2an _ _ => none
  | .ptP2e _ _ => none
  | .ptC2p _ _ => none
  | .ptC2e _ _ => none
  | .ptDbl _ _ => none
  | .ptAdd _ _ _ => none
  | .ptSub _ _ _ => none
  | .ptNeg _ _ => none
  | .ptCsel _ _ _ _ => none
  | .ptCneg _ _ => none
  | .ptCassign _ _ _ => none
  | .ptEq _ _ _ => none
  | .ptIssmall _ _ => none
  | .ptIsident _ _ => none
  | .ptMulcof _ _ => none
  | .ptEadd _ _ _ => none
  | .ptEsub _ _ _ => none
  | .ptEdbl _ _ => none
  | .ptSmul _ _ _ => none
  | .ptDsmb _ _ _ _ => none
  | .msmClr => none
  | .msmPush _ _ => none
  | .msmRun _ => none
  | .ell2 _ _ => none
  | .mtoe _ _ _ => none

/-- The commands that may change the pair list (10_state.md R57). -/
def touchesMsm : Instr → Bool
  | .msmClr => true
  | .msmPush _ _ => true
  | .msmRun _ => true
  | .nop => false
  | .chSet _ _ => false
  | .chNot _ _ => false
  | .chAnd _ _ _ => false
  | .chOr _ _ _ => false
  | .chXor _ _ _ => false
  | .feLd _ _ => false
  | .feSt _ _ => false
  | .feConst _ _ => false
  | .feMov _ _ => false
  | .feAdd _ _ _ => false
  | .feSub _ _ _ => false
  | .feNeg _ _ => false
  | .feMul _ _ _ => false
  | .feSq _ _ => false
  | .feSq2 _ _ => false
  | .fePow2k _ _ _ => false
  | .feInv _ _ => false
  | .fePowp58 _ _ => false
  | .fePow22501 _ _ _ => false
  | .feSqrtri _ _ _ _ => false
  | .feRed _ _ => false
  | .feCsel _ _ _ _ => false
  | .feCneg _ _ => false
  | .feCassign _ _ _ => false
  | .feEq _ _ _ => false
  | .feIsneg _ _ => false
  | .feIszero _ _ => false
  | .scLd _ _ => false
  | .scLdw _ _ => false
  | .scSt _ _ => false
  | .scMov _ _ => false
  | .scAdd _ _ _ => false
  | .scSub _ _ _ => false
  | .scMul _ _ _ => false
  | .scNeg _ _ => false
  | .scRed _ _ => false
  | .scIscanon _ _ => false
  | .scMmul _ _ _ => false
  | .scTomont _ _ => false
  | .scFrommont _ _ => false
  | .scRadix16 _ _ => false
  | .scRadix2w _ _ _ => false
  | .scNaf _ _ _ => false
  | .dgSt _ _ => false
  | .ptIdent _ => false
  | .ptBase _ => false
  | .ptMov _ _ => false
  | .ptDecomp _ _ _ => false
  | .ptComp _ _ => false
  | .ptE2p _ _ => false
  | .ptE2pn _ _ => false
  | .ptE2an _ _ => false
  | .ptP2e _ _ => false
  | .ptC2p _ _ => false
  | .ptC2e _ _ => false
  | .ptDbl _ _ => false
  | .ptAdd _ _ _ => false
  | .ptSub _ _ _ => false
  | .ptNeg _ _ => false
  | .ptCsel _ _ _ _ => false
  | .ptCneg _ _ => false
  | .ptCassign _ _ _ => false
  | .ptEq _ _ _ => false
  | .ptIssmall _ _ => false
  | .ptIsident _ _ => false
  | .ptMulcof _ _ => false
  | .ptEadd _ _ _ => false
  | .ptEsub _ _ _ => false
  | .ptEdbl _ _ => false
  | .ptSmul _ _ _ => false
  | .ptDsmb _ _ _ _ => false
  | .ell2 _ _ => false
  | .mtoe _ _ _ => false

/-- The tag code of a point register, 0 for EMPTY (10_state.md R36). -/
def tagCode : Option Point → BitVec 3
  | none => 0
  | some (.ext _) => 1
  | some (.proj _) => 2
  | some (.compl _) => 3
  | some (.pniels _) => 4
  | some (.aniels _) => 5

end Sys2Proof.Machine
end

