-- ==== Sys2Proof/Machine/Bus.lean ====
section
/-! DEFINITION. The host's side of the block: the register window of 10_state.md R43, read and written by aligned
32-bit accesses (20_memory.md R79, R80), and the reset input (70_reset_and_hazards.md R431). -/
namespace Sys2Proof.Machine

/-- The offset of CMD (10_state.md R43). -/
def cmdOffset : Nat := 0x010
/-- The offset of CTRL (10_state.md R43). -/
def ctrlOffset : Nat := 0x030
/-- The offset of the ORAM window (10_state.md R43, 20_memory.md R78). -/
def oramOffset : Nat := 0x800

/-- The end of the ORAM window, `0x800 + 32 * NSLOT` (20_memory.md R78). -/
def windowEnd (prm : Params) : Nat := oramOffset + 32 * prm.nslot

/-- Bit `i` of a register that mirrors a file: whether register `i` of the file is not EMPTY (10_state.md R51, R54).
DESIGN CHOICE: 0 for a register the instance does not have, where the spec is silent (log entry 20). -/
def validBit {α : Type} (file : List (Option α)) (i : Nat) : Nat := ((file.getD i none).isSome).toNat

/-- `sum of bit(i) 2^i` for `i` from `lo` on, `n` bits. -/
def bitSum (bit : Nat → Nat) : (lo n : Nat) → Nat
  | _, 0 => 0
  | lo, n + 1 => bit lo + 2 * bitSum bit (lo + 1) n

/-- PARAM0: `NF`, `NS`, `NP`, `NC`, a byte each (R47). -/
def param0 (prm : Params) : Word :=
  BitVec.ofNat 32 (prm.nf + prm.ns * 2 ^ 8 + prm.np * 2 ^ 16 + prm.nc * 2 ^ 24)

/-- PARAM1: `NDG`, `NSLOT`, `MSM_CAP`, a byte each, and DECOMP_REJECT_NEG_ZERO in bit 24 (R47). -/
def param1 (prm : Params) : Word :=
  BitVec.ofNat 32 (prm.ndg + prm.nslot * 2 ^ 8 + prm.msmCap * 2 ^ 16 + prm.rejectNegZero.toNat * 2 ^ 24)

/-- STATUS: bit 0 FAULT, bit 1 READY, which reads 1 always (R49). -/
def statusWord (s : State) : Word := BitVec.ofNat 32 (s.fault.toNat + 2)

/-- CHOICE: bit `i` the value of `C[i]`, 0 when EMPTY; bit `8+i` whether `C[i]` is not EMPTY (R51). DESIGN CHOICE: both
0 for a choice bit the instance does not have (log entry 20). -/
def choiceWord (s : State) : Word :=
  BitVec.ofNat 32 (bitSum (fun i => (s.C.getD i none == some true).toNat) 0 8 + bitSum (validBit s.C) 0 8 * 2 ^ 8)

/-- MSMCNT: the length of the pair list in bits 7:0 (R52). -/
def msmcntWord (s : State) : Word := BitVec.ofNat 32 (s.msm.length % 2 ^ 8)

/-- `sum of tag(P[i]) 16^i`, `n` registers from `i` on. DESIGN CHOICE: a point register the instance does not have
counts with the tag 0 of EMPTY (log entry 20). -/
def tagSum (s : State) : (i n : Nat) → Nat
  | _, 0 => 0
  | i, n + 1 => (tagCode (s.P.getD i none)).toNat + 16 * tagSum s (i + 1) n

/-- PTAG: four bits for each of the first eight point registers, the tag in the low three (R54). -/
def ptagWord (s : State) : Word := BitVec.ofNat 32 (tagSum s 0 8)

/-- RVALID: 16 bits for `F`, 8 for `S`, 2 for `DG`, each whether the register is not EMPTY (R54). -/
def rvalidWord (s : State) : Word :=
  BitVec.ofNat 32 (bitSum (validBit s.F) 0 16 + bitSum (validBit s.S) 0 8 * 2 ^ 16 + bitSum (validBit s.DG) 0 2 * 2 ^ 24)

/-- A 32-bit word of ORAM, the byte with the lowest address in bits 7:0 (20_memory.md R75, R79). -/
def oramWord (m : Memory) (a : Nat) : Word := BitVec.ofNat 32 (le (memRead m a 4))

/-- What a 32-bit read at a window offset returns; it has no side effect (10_state.md R43, 20_memory.md R77).
Write-only registers and offsets the map does not list read 0. -/
def hostRead (s : State) (offset : Nat) : Word :=
  if oramOffset ≤ offset then
    if offset < windowEnd s.params then oramWord s.oram (offset - oramOffset) else 0
  else
    match offset with
    | 0x000 => 0x45443235
    | 0x004 => 0x00000007
    | 0x008 => param0 s.params
    | 0x00C => param1 s.params
    | 0x014 => statusWord s
    | 0x018 => s.faultcode.setWidth 32
    | 0x01C => s.faultcmd
    | 0x020 => s.faultidx
    | 0x024 => s.cmdidx
    | 0x028 => choiceWord s
    | 0x02C => msmcntWord s
    | 0x034 => ptagWord s
    | 0x038 => rvalidWord s
    | _ => 0

/-- The effect of a 32-bit write at a window offset other than CMD: the soft reset by bit 0 of CTRL (10_state.md
R53), four bytes of ORAM (20_memory.md R79), and nothing at a read-only or unlisted offset (10_state.md R43). -/
def hostWrite (s : State) (offset : Nat) (w : Word) : State :=
  if offset = ctrlOffset then
    if w.getLsbD 0 then s.resetBlock else s
  else if oramOffset ≤ offset ∧ offset < windowEnd s.params then
    { s with oram := memWrite s.oram (offset - oramOffset) (leBytes 4 w.toNat) }
  else s

/-- The reset input driven to a level. Its assertion resets the block; while it is asserted the block accepts no
access (70_reset_and_hazards.md R431). -/
def driveReset (s : State) (asserted : Bool) : State :=
  if asserted then { s.resetBlock with resetIn := true } else { s with resetIn := false }

/-- A 32-bit access at an offset: refused during reset (70_reset_and_hazards.md R431) and where misaligned
(20_memory.md R80), a fault past the window (R78), else `act`. -/
def busAccess (s : State) (offset : Nat) (act : Result) : Result :=
  if s.resetIn then .refused .accessDuringReset
  else if offset % 4 ≠ 0 then .refused .misalignedAccess
  else if windowEnd s.params ≤ offset then .fault .outsideWindow
  else act

/-- One bus event, taken from the host's sequence already; `accept` is what a write to CMD does. -/
def busEvent (accept : Word → State → Result) (e : BusEvent) (s : State) : Result :=
  match e with
  | .read offset => busAccess s offset (.next { s with readLog := s.readLog ++ [hostRead s offset] })
  | .write offset w =>
    busAccess s offset (if offset = cmdOffset then accept w s else .next (hostWrite s offset w))
  | .otherWidth _ _ => if s.resetIn then .refused .accessDuringReset else .refused .accessWidth
  | .resetInput asserted => .next (driveReset s asserted)

end Sys2Proof.Machine
end

