-- ==== Sys2Proof/Machine/ScalarArith.lean ====
section
/-! DEFINITION. The reference limb datapath of the scalar engine, 42_scalar.md R215 to R221, and the digit
recodings R222 to R224. Limb variables are `u64`, columns `u128`, narrowed where they are assigned. -/
namespace Sys2Proof.Machine

/-- The unpacked form of a scalar: five 64-bit limbs, radix 2^52 (42_scalar.md R211). It exists inside a command
only (10_state.md R55). -/
structure Unpacked where
  s0 : BitVec 64
  s1 : BitVec 64
  s2 : BitVec 64
  s3 : BitVec 64
  s4 : BitVec 64
deriving DecidableEq, Repr

/-- An unpacked scalar from five limbs, each narrowed to 64 bits. -/
def Unpacked.ofLimbs (n0 n1 n2 n3 n4 : Nat) : Unpacked :=
  ⟨.ofNat 64 n0, .ofNat 64 n1, .ofNat 64 n2, .ofNat 64 n3, .ofNat 64 n4⟩

/-- The integer `sum s[i] 2^(52 i)` of an unpacked scalar (R211). -/
def Unpacked.value (x : Unpacked) : Nat :=
  x.s0.toNat + x.s1.toNat * 2 ^ 52 + x.s2.toNat * 2 ^ 104 + x.s3.toNat * 2 ^ 156 + x.s4.toNat * 2 ^ 208

/-- `L`, the group order in radix 2^52 (R212). -/
def scL : Unpacked :=
  .ofLimbs 0x0002631a5cf5d3ed 0x000dea2f79cd6581 0x000000000014def9 0x0000000000000000 0x0000100000000000
/-- `R = 2^260 mod l` (R212). -/
def scR : Unpacked :=
  .ofLimbs 0x000f48bd6721e6ed 0x0003bab5ac67e45a 0x000fffffeb35e51b 0x000fffffffffffff 0x00000fffffffffff
/-- `RR = 2^520 mod l` (R212). -/
def scRR : Unpacked :=
  .ofLimbs 0x0009d265e952d13b 0x000d63c715bea69f 0x0005be65cb687604 0x0003dceec73d217f 0x000009411b7c309a
/-- The unpacked scalar 0. -/
def scZero : Unpacked := .ofLimbs 0 0 0 0 0

/-- The 64-bit word `j` of an integer: `LE(b[8j .. 8j+7])` of its byte string (R215, R221). -/
def word64 (n j : Nat) : Nat := u64 (n >>> (64 * j))

/-- `sc_unpack` of a packed scalar: all 256 bits are kept (R215). -/
def scUnpack (n : Scalar) : Unpacked :=
  let w0 := word64 n.toNat 0; let w1 := word64 n.toNat 1; let w2 := word64 n.toNat 2; let w3 := word64 n.toNat 3
  .ofLimbs (w0 &&& M52) ((w0 >>> 52 ||| u64 (w1 <<< 12)) &&& M52) ((w1 >>> 40 ||| u64 (w2 <<< 24)) &&& M52)
    ((w2 >>> 28 ||| u64 (w3 <<< 36)) &&& M52) (w3 >>> 16 &&& (2 ^ 48 - 1))

/-- `sc_pack`: the integer of the limbs, below 2^256 where the spec uses it (R216). -/
def scPack (x : Unpacked) : Scalar := BitVec.ofNat 256 x.value

/-- The borrow chain of `sc_sub52`: the five differences and the last borrow word (R217). -/
def scSubBorrow (a b : Unpacked) : Unpacked × Nat :=
  let w0 := sub64 a.s0.toNat (u64 (b.s0.toNat + 0))
  let w1 := sub64 a.s1.toNat (u64 (b.s1.toNat + (w0 >>> 63)))
  let w2 := sub64 a.s2.toNat (u64 (b.s2.toNat + (w1 >>> 63)))
  let w3 := sub64 a.s3.toNat (u64 (b.s3.toNat + (w2 >>> 63)))
  let w4 := sub64 a.s4.toNat (u64 (b.s4.toNat + (w3 >>> 63)))
  (.ofLimbs (w0 &&& M52) (w1 &&& M52) (w2 &&& M52) (w3 &&& M52) (w4 &&& M52), w4)

/-- `sc_sub52`: limb subtraction, then the masked addition of `L` when it went negative (R217). -/
def scSub52 (a b : Unpacked) : Unpacked :=
  let d := (scSubBorrow a b).1
  let mask := sub64 ((scSubBorrow a b).2 >>> 63 ^^^ 1) 1
  let c0 := u64 (d.s0.toNat + (scL.s0.toNat &&& mask))
  let c1 := u64 ((c0 >>> 52) + d.s1.toNat + (scL.s1.toNat &&& mask))
  let c2 := u64 ((c1 >>> 52) + d.s2.toNat + (scL.s2.toNat &&& mask))
  let c3 := u64 ((c2 >>> 52) + d.s3.toNat + (scL.s3.toNat &&& mask))
  let c4 := u64 ((c3 >>> 52) + d.s4.toNat + (scL.s4.toNat &&& mask))
  .ofLimbs (c0 &&& M52) (c1 &&& M52) (c2 &&& M52) (c3 &&& M52) (c4 &&& M52)

/-- `sc_add52`: limb addition, then `sc_sub52` of `L` (R218). -/
def scAdd52 (a b : Unpacked) : Unpacked :=
  let c0 := u64 (a.s0.toNat + b.s0.toNat)
  let c1 := u64 (a.s1.toNat + b.s1.toNat + (c0 >>> 52))
  let c2 := u64 (a.s2.toNat + b.s2.toNat + (c1 >>> 52))
  let c3 := u64 (a.s3.toNat + b.s3.toNat + (c2 >>> 52))
  let c4 := u64 (a.s4.toNat + b.s4.toNat + (c3 >>> 52))
  scSub52 (.ofLimbs (c0 &&& M52) (c1 &&& M52) (c2 &&& M52) (c3 &&& M52) (c4 &&& M52)) scL

/-- The nine `u128` columns of a product (R219, R220). -/
structure Columns where
  z0 : Nat
  z1 : Nat
  z2 : Nat
  z3 : Nat
  z4 : Nat
  z5 : Nat
  z6 : Nat
  z7 : Nat
  z8 : Nat
deriving DecidableEq, Repr

/-- `sc_mul_internal`: the 9-limb schoolbook product (R219). -/
def scMulInternal (a b : Unpacked) : Columns :=
  let a0 := a.s0.toNat; let a1 := a.s1.toNat; let a2 := a.s2.toNat; let a3 := a.s3.toNat; let a4 := a.s4.toNat
  let b0 := b.s0.toNat; let b1 := b.s1.toNat; let b2 := b.s2.toNat; let b3 := b.s3.toNat; let b4 := b.s4.toNat
  { z0 := u128 (a0 * b0)
    z1 := u128 (a0 * b1 + a1 * b0)
    z2 := u128 (a0 * b2 + a1 * b1 + a2 * b0)
    z3 := u128 (a0 * b3 + a1 * b2 + a2 * b1 + a3 * b0)
    z4 := u128 (a0 * b4 + a1 * b3 + a2 * b2 + a3 * b1 + a4 * b0)
    z5 := u128 (a1 * b4 + a2 * b3 + a3 * b2 + a4 * b1)
    z6 := u128 (a2 * b4 + a3 * b3 + a4 * b2)
    z7 := u128 (a3 * b4 + a4 * b3)
    z8 := u128 (a4 * b4) }

/-- The quotient limb of `part1`: `((sum mod 2^64) *64 LFACTOR) & M52` (R220). -/
def redQ (sum : Nat) : Nat := u64 (u64 sum * lfactor) &&& M52

/-- The carry of `part1`: `(sum + m(pq, L[0])) >> 52` (R220). -/
def redC (sum : Nat) : Nat := u128 (sum + redQ sum * scL.s0.toNat) >>> 52

/-- `sc_montgomery_reduce` (R220). `L[3]` is 0, so its products are absent (R212). -/
def scMontgomeryReduce (z : Columns) : Unpacked :=
  let L1 := scL.s1.toNat; let L2 := scL.s2.toNat; let L4 := scL.s4.toNat
  let t0 := u128 z.z0; let n0 := redQ t0
  let t1 := u128 (redC t0 + z.z1 + n0 * L1); let n1 := redQ t1
  let t2 := u128 (redC t1 + z.z2 + n0 * L2 + n1 * L1); let n2 := redQ t2
  let t3 := u128 (redC t2 + z.z3 + n1 * L2 + n2 * L1); let n3 := redQ t3
  let t4 := u128 (redC t3 + z.z4 + n0 * L4 + n2 * L2 + n3 * L1); let n4 := redQ t4
  let t5 := u128 (redC t4 + z.z5 + n1 * L4 + n3 * L2 + n4 * L1)
  let t6 := u128 ((t5 >>> 52) + z.z6 + n2 * L4 + n4 * L2)
  let t7 := u128 ((t6 >>> 52) + z.z7 + n3 * L4)
  let t8 := u128 ((t7 >>> 52) + z.z8 + n4 * L4)
  scSub52 (.ofLimbs (u64 t5 &&& M52) (u64 t6 &&& M52) (u64 t7 &&& M52) (u64 t8 &&& M52) (t8 >>> 52)) scL

/-- `MM(x, y)`, one Montgomery multiplication (R221). -/
def scMM (x y : Unpacked) : Unpacked := scMontgomeryReduce (scMulInternal x y)

/-! ### Composite operations on packed scalars (R221) -/

/-- `sc_reduce`: `a mod l`. -/
def scReduce (a : Scalar) : Scalar := scPack (scMM (scUnpack a) scR)
/-- `sc_mul`: `a b mod l`. -/
def scMul (a b : Scalar) : Scalar := scPack (scMM (scMM (scUnpack a) (scUnpack b)) scRR)
/-- `sc_add`: `(a + b) mod l`. -/
def scAdd (a b : Scalar) : Scalar := scPack (scMM (scAdd52 (scUnpack a) (scUnpack b)) scR)
/-- `sc_sub`: `(a − b) mod l`. -/
def scSub (a b : Scalar) : Scalar := scPack (scSub52 (scUnpack (scReduce a)) (scUnpack (scReduce b)))
/-- `sc_neg`: `(−a) mod l`. -/
def scNeg (a : Scalar) : Scalar := scPack (scSub52 scZero (scUnpack (scReduce a)))
/-- `sc_to_mont`: `a R mod l`. -/
def scToMont (a : Scalar) : Scalar := scPack (scMM (scUnpack a) scRR)
/-- `sc_from_mont`: `a R^(−1) mod l`. -/
def scFromMont (a : Scalar) : Scalar :=
  let u := scUnpack a
  scPack (scMontgomeryReduce ⟨u.s0.toNat, u.s1.toNat, u.s2.toNat, u.s3.toNat, u.s4.toNat, 0, 0, 0, 0⟩)
/-- `sc_mmul`: `a b R^(−1) mod l`. -/
def scMmul (a b : Scalar) : Scalar := scPack (scMM (scUnpack a) (scUnpack b))

/-- The low half of `from_bytes_wide`: the limbs of `n mod 2^260` (R221). -/
def wideLo (n : Nat) : Unpacked :=
  let w0 := word64 n 0; let w1 := word64 n 1; let w2 := word64 n 2; let w3 := word64 n 3; let w4 := word64 n 4
  .ofLimbs (w0 &&& M52) ((w0 >>> 52 ||| u64 (w1 <<< 12)) &&& M52) ((w1 >>> 40 ||| u64 (w2 <<< 24)) &&& M52)
    ((w2 >>> 28 ||| u64 (w3 <<< 36)) &&& M52) ((w3 >>> 16 ||| u64 (w4 <<< 48)) &&& M52)

/-- The high half of `from_bytes_wide`: the limbs of `n >> 260` (R221). -/
def wideHi (n : Nat) : Unpacked :=
  let w4 := word64 n 4; let w5 := word64 n 5; let w6 := word64 n 6; let w7 := word64 n 7
  .ofLimbs (w4 >>> 4 &&& M52) ((w4 >>> 56 ||| u64 (w5 <<< 8)) &&& M52) ((w5 >>> 44 ||| u64 (w6 <<< 20)) &&& M52)
    ((w6 >>> 32 ||| u64 (w7 <<< 32)) &&& M52) (w7 >>> 20)

/-- `sc_from_bytes_wide` of the 512-bit integer of the 64 bytes: `n mod l` (R221). -/
def scFromWide (n : Nat) : Scalar := scPack (scAdd52 (scMM (wideHi n) scRR) (scMM (wideLo n) scR))

/-- The test of SC_ISCANON: `n < l`, read from the borrow of the limb subtraction `n − L` (R239). -/
def scIsCanon (a : Scalar) : Bool := (scSubBorrow (scUnpack a) scL).2 >>> 63 == 1

/-! ### Digit recodings -/

/-- The recentring loop of `sc_radix16` on the nibbles from some position on, with the carry into it (R222). -/
def recentre16 : List Nat → Nat → List Int
  | [], _ => []
  | [e], carry => [(e + carry : Nat)]
  | e :: e' :: es, carry =>
    let t := e + carry
    let k := (t + 8) >>> 4
    ((t : Int) - 16 * (k : Int)) :: recentre16 (e' :: es) k

/-- `sc_radix16`: 64 signed digits of an integer below 2^255 (R222). -/
def scRadix16 (n : Nat) : List Int :=
  recentre16 ((List.range 64).map fun i => n >>> (4 * i) &&& 15) 0

/-- The loop of `sc_radix2w` for w = 5 to 8: `left` windows remain from window `i` on (R223). -/
def radix2wLoop (n w : Nat) : (left i carry : Nat) → List Int
  | 0, _, carry => if w = 8 then [(carry : Int)] else []
  | left + 1, i, carry =>
    let coef := carry + (n >>> (w * i) &&& (2 ^ w - 1))
    let carry' := (coef + 2 ^ (w - 1)) >>> w
    let g := (coef : Int) - (carry' : Int) * 2 ^ w
    if left = 0 ∧ w ≠ 8 then [g + (carry' : Int) * 2 ^ w] else g :: radix2wLoop n w left (i + 1) carry'

/-- `sc_radix2w` (R223): the radix-16 form for w = 4, else `ceil(256 / w)` windows. -/
def scRadix2w (n w : Nat) : List Int :=
  if w = 4 then scRadix16 n else radix2wLoop n w ((256 + w - 1) / w) 0 0

/-- The loop of `sc_naf` from bit position `pos` on, `left` positions remaining, the next `skip` of which stay 0
after a nonzero digit (R224). -/
def nafLoop (n w : Nat) : (left pos skip carry : Nat) → List Int
  | 0, _, _, _ => []
  | left + 1, pos, skip, carry =>
    match skip with
    | skip' + 1 => 0 :: nafLoop n w left (pos + 1) skip' carry
    | 0 =>
      let window := carry + (n >>> pos &&& (2 ^ w - 1))
      if window % 2 = 0 then 0 :: nafLoop n w left (pos + 1) 0 carry
      else if window < 2 ^ (w - 1) then (window : Int) :: nafLoop n w left (pos + 1) (w - 1) 0
      else ((window : Int) - 2 ^ w) :: nafLoop n w left (pos + 1) (w - 1) 1

/-- `sc_naf`: 256 signed digits of an integer below 2^255 (R224). -/
def scNaf (n w : Nat) : List Int := nafLoop n w 256 0 0 0

/-- A digit as an `i8` (00_scope.md R7). -/
def digitByte (x : Int) : Byte := BitVec.ofInt 8 x

/-- A digit buffer's content: the digits as bytes, zeros from `len` on (10_state.md R40). -/
def Digits.ofList (ds : List Int) : Digits :=
  ⟨ds.length, (ds ++ List.replicate (256 - ds.length) 0).map digitByte⟩

end Sys2Proof.Machine
end

