-- ==== Sys2Proof/Machine/DigitCmds.lean ====
section
/-! DEFINITION. The digit-form commands of the scalar engine, 42_scalar.md R243 to R246. -/
namespace Sys2Proof.Machine

/-- The shape of a digit command: `DG[d] <- f(S[a])`, recoding the integer held (42_scalar.md R214). -/
def scDigits (i : Instr) (f : Nat → List Int) (d a : RegNo) (s : State) : Result :=
  command i s do
    let x ← s.srcS a
    return s.writeDG d (Digits.ofList (f x.toNat))

/-- SC_RADIX16: the 64 radix-16 digits (R243). -/
def execScRadix16 (d a : RegNo) (s : State) : Result :=
  scDigits (.scRadix16 d a) scRadix16 d a s

/-- SC_RADIX2W: the radix-2^w digits, `w = imm` (R244). -/
def execScRadix2w (d a : RegNo) (imm : Imm) (s : State) : Result :=
  scDigits (.scRadix2w d a imm) (fun n => scRadix2w n imm.toNat) d a s

/-- SC_NAF: the 256 digits of the width-`imm` NAF (R245). -/
def execScNaf (d a : RegNo) (imm : Imm) (s : State) : Result :=
  scDigits (.scNaf d a imm) (fun n => scNaf n imm.toNat) d a s

/-- DG_ST: store all 256 digits, one byte each (R246). -/
def execDgSt (a : RegNo) (imm : Imm) (s : State) : Result :=
  command (.dgSt a imm) s do
    let x ← s.srcDG a
    return s.writeSlots imm x.dig

end Sys2Proof.Machine
end

