-- ==== Sys2Proof/Machine/EllArith.lean ====
section
/-! DEFINITION. The Elligator2 map and the Montgomery-to-Edwards conversion of 45_elligator.md, on the datapath of
Machine/Field.lean. -/
namespace Sys2Proof.Machine

/-- The Elligator2 map, field element `r` to Montgomery `u` (R351). -/
def elligator2 (r : Fe) : Fe :=
  let d1 := feAdd feOne (feSq2 r)
  strictFe (feMul feMontgomeryANeg (feInvert d1)) fun dd =>
  let eps := feMul dd (feAdd (feAdd (feSq dd) (feMul feMontgomeryA dd)) feOne)
  let sq := (feSqrtRatio eps feOne).1
  let at_ := feSelect feMontgomeryA feZero sq
  feCneg (feAdd dd at_) (!sq)

/-- Montgomery `u` to an Edwards point (R352): none for `u = −1` and where `y = (u − 1)/(u + 1)` with the sign bit
does not decompress. -/
def montToEdwards (reject : Bool) (u : Fe) (sign : Bool) : Option Ext :=
  if feCtEq u feMinusOne = true then none
  else
    strictFe (feMul (feSub u feOne) (feInvert (feAdd u feOne))) fun y =>
    let s := feToBytes y
    decompress reject (s.set 31 (s.getD 31 0 ^^^ BitVec.ofNat 8 sign.toNat <<< 7))

end Sys2Proof.Machine
end

