-- ==== Sys2Proof/Machine/Flags.lean ====
section
/-! DEFINITION. The flags of the block: the choice bits (10_state.md R39, 40_system_choice.md R132). A predicate
writes the one choice bit it names; no command writes a choice bit as a side effect, and there are no carry, zero,
sign or overflow flags. -/
namespace Sys2Proof.Machine

/-- The choice bit an immediate 0 or 1 stands for (40_system_choice.md R133). -/
def bitOfImm (v : Imm) : Bool := v.getLsbD 0

/-- `1 − c` (40_system_choice.md R134). -/
def choiceNot (c : Bool) : Bool := !c
/-- `x AND y` (40_system_choice.md R135). -/
def choiceAnd (x y : Bool) : Bool := x && y
/-- `x OR y` (40_system_choice.md R136). -/
def choiceOr (x y : Bool) : Bool := x || y
/-- `x XOR y` (40_system_choice.md R137). -/
def choiceXor (x y : Bool) : Bool := x ^^ y

end Sys2Proof.Machine
end

