-- ==== Sys2Proof/Machine/EllCmds.lean ====
section
/-! DEFINITION. The Elligator2 commands, 45_elligator.md R351 and R352. -/
namespace Sys2Proof.Machine

/-- ELL2: the Elligator2 map (R351). -/
def execEll2 (d a : RegNo) (s : State) : Result :=
  command (.ell2 d a) s do
    let r ← s.srcF a
    return s.writeF d (elligator2 r)

/-- The result of MTOE's conversion, or the ELLIGATOR fault (45_elligator.md R352, 60_exceptions.md R409). -/
def mtoePoint : Option Ext → Except FaultCode Ext
  | some e => .ok e
  | none => .error .elligator

/-- MTOE: Montgomery `u` to an Edwards point with the sign `imm`; ELLIGATOR where there is none (R352). -/
def execMtoe (d a : RegNo) (imm : Imm) (s : State) : Result :=
  command (.mtoe d a imm) s do
    let u ← s.srcF a
    let e ← mtoePoint (montToEdwards s.params.rejectNegZero u (bitOfImm imm))
    return s.writeP d (.ext e)

end Sys2Proof.Machine
end

