-- ==== Sys2Proof/Machine/FieldCmds.lean ====
section
/-! DEFINITION. The commands of the field engine, 41_field.md R170 to R191. -/
namespace Sys2Proof.Machine

/-- The shape of a field command with one field source and one field destination: `F[d] <- f(F[a])`. -/
def feUnary (i : Instr) (f : Fe → Fe) (d a : RegNo) (s : State) : Result :=
  command i s do
    let x ← s.srcF a
    return s.writeF d (f x)

/-- The shape of a field command with two field sources and one field destination: `F[d] <- f(F[a], F[b])`. -/
def feBinary (i : Instr) (f : Fe → Fe → Fe) (d a b : RegNo) (s : State) : Result :=
  command i s do
    let x ← s.srcF a
    let y ← s.srcF b
    return s.writeF d (f x y)

/-- The shape of a field predicate of one source: `C[d] <- f(F[a])`. -/
def feTest (i : Instr) (f : Fe → Bool) (d a : RegNo) (s : State) : Result :=
  command i s do
    let x ← s.srcF a
    return s.writeC d (f x)

/-- FE_LD: load a field element from a slot (R170). -/
def execFeLd (d : RegNo) (imm : Imm) (s : State) : Result :=
  command (.feLd d imm) s (.ok (s.writeF d (feFromBytes (s.readSlots imm 1))))

/-- FE_ST: store the canonical encoding (R171). -/
def execFeSt (a : RegNo) (imm : Imm) (s : State) : Result :=
  command (.feSt a imm) s do
    let x ← s.srcF a
    return s.writeSlots imm (feToBytes x)

/-- FE_CONST: load a constant (R172). -/
def execFeConst (d : RegNo) (imm : Imm) (s : State) : Result :=
  command (.feConst d imm) s (.ok (s.writeF d (feConstOf imm.toNat)))

/-- FE_MOV: copy, the limb vector unchanged (R173). -/
def execFeMov (d a : RegNo) (s : State) : Result :=
  feUnary (.feMov d a) id d a s

/-- FE_ADD: addition (R174). -/
def execFeAdd (d a b : RegNo) (s : State) : Result :=
  feBinary (.feAdd d a b) feAdd d a b s

/-- FE_SUB: subtraction (R175). -/
def execFeSub (d a b : RegNo) (s : State) : Result :=
  feBinary (.feSub d a b) feSub d a b s

/-- FE_NEG: negation (R176). -/
def execFeNeg (d a : RegNo) (s : State) : Result :=
  feUnary (.feNeg d a) feNeg d a s

/-- FE_MUL: multiplication (R177). -/
def execFeMul (d a b : RegNo) (s : State) : Result :=
  feBinary (.feMul d a b) feMul d a b s

/-- FE_SQ: squaring (R178). -/
def execFeSq (d a : RegNo) (s : State) : Result :=
  feUnary (.feSq d a) feSq d a s

/-- FE_SQ2: doubled squaring (R179). -/
def execFeSq2 (d a : RegNo) (s : State) : Result :=
  feUnary (.feSq2 d a) feSq2 d a s

/-- FE_POW2K: `imm` successive squarings (R180). -/
def execFePow2k (d a : RegNo) (imm : Imm) (s : State) : Result :=
  feUnary (.fePow2k d a imm) (fun x => fePow2k x imm.toNat) d a s

/-- FE_INV: inversion, 0 for 0 (R181). -/
def execFeInv (d a : RegNo) (s : State) : Result :=
  feUnary (.feInv d a) feInvert d a s

/-- FE_POWP58: the power `(p − 5)/8` (R182). -/
def execFePowp58 (d a : RegNo) (s : State) : Result :=
  feUnary (.fePowp58 d a) fePowP58 d a s

/-- FE_POW22501: the pair of powers; `d` gets the first, `a` the second (R183). -/
def execFePow22501 (d a b : RegNo) (s : State) : Result :=
  command (.fePow22501 d a b) s do
    let x ← s.srcF b
    return (s.writeF d (fePow22501 x).1).writeF a (fePow22501 x).2

/-- FE_SQRTRI: `sqrt_ratio_i`; the root to `F[d]`, `is_valid` to `C[c]` (R184). -/
def execFeSqrtri (d a b c : RegNo) (s : State) : Result :=
  command (.feSqrtri d a b c) s do
    let u ← s.srcF a
    let v ← s.srcF b
    return (s.writeF d (feSqrtRatio u v).2).writeC c (feSqrtRatio u v).1

/-- FE_RED: full reduction, `fe_frombytes(fe_tobytes)` (R185). -/
def execFeRed (d a : RegNo) (s : State) : Result :=
  feUnary (.feRed d a) (fun x => feFromBytes (feToBytes x)) d a s

/-- FE_CSEL: conditional select, `F[a]` for choice 0 (R186). -/
def execFeCsel (d a b c : RegNo) (s : State) : Result :=
  command (.feCsel d a b c) s do
    let x ← s.srcF a
    let y ← s.srcF b
    let k ← s.srcC c
    return s.writeF d (feSelect x y k)

/-- FE_CNEG: conditional negate in place; `C[c]` is checked before `F[d]` (R187). -/
def execFeCneg (d c : RegNo) (s : State) : Result :=
  command (.feCneg d c) s do
    let k ← s.srcC c
    let x ← s.srcF d
    return s.writeF d (feCneg x k)

/-- FE_CASSIGN: conditional assign in place; `F[a]`, `C[c]`, `F[d]` are checked in that order (R188). -/
def execFeCassign (d a c : RegNo) (s : State) : Result :=
  command (.feCassign d a c) s do
    let y ← s.srcF a
    let k ← s.srcC c
    let x ← s.srcF d
    return s.writeF d (feCassign x y k)

/-- FE_EQ: equality of canonical encodings (R189). -/
def execFeEq (d a b : RegNo) (s : State) : Result :=
  command (.feEq d a b) s do
    let x ← s.srcF a
    let y ← s.srcF b
    return s.writeC d (feCtEq x y)

/-- FE_ISNEG: the low bit of the canonical encoding (R190). -/
def execFeIsneg (d a : RegNo) (s : State) : Result :=
  feTest (.feIsneg d a) feIsNegative d a s

/-- FE_ISZERO: the zero test (R191). -/
def execFeIszero (d a : RegNo) (s : State) : Result :=
  feTest (.feIszero d a) feIsZero d a s

end Sys2Proof.Machine
end

