-- ==== Sys2Proof/Machine/BaseTable.lean ====
section
/-! DEFINITION. The basepoint table of PT_DSMB, 44_scalarmul_msm.md R327: 64 ANIELS entries, entry `j` the affine
Niels form `(y + x, y − x, 2 d x y)` of `[2j+1]B`. It is a constant of the block, not state. -/
namespace Sys2Proof.Machine

/-- An ANIELS content from the values of its components. -/
def anielsOf (ypx ymx xy2d : Nat) : ANiels := ⟨Fe.ofValue ypx, Fe.ofValue ymx, Fe.ofValue xy2d⟩

/-- Entries 0 to 7: the multiples 1B to 15B. -/
def baseTable0 : List ANiels := [
  anielsOf
    0x7cf9d3a33d4ba65270b4898643d42c2cf932dc6fb8c0e192fbc93c6f58c3b85
    0x44fd2f9298f81267a5c18434688f8a09fd399f05d140beb39d103905d740913e
    0x6f117b689f0c65a85a1b7dcbdd43598c26d9e823ccaac49eabc91205877aaa68,
  anielsOf
    0x7a164e1b9a80f8f4c11b50029f016732025a8430e8864b8aaf25b0a84cee9730
    0x2ab91587555bda628131f31a214bd6bd3bd353fde5c1ba7d56611fe8a4fcd265
    0x5a2826af12b9b4c6d170e5458cf2db4c589423221c35da6214ae933f0dd0d889,
  anielsOf
    0x2945ccf146e206ebdd1beb0c5abfec448d5048c3c75eed02a212bc4408a5bb33
    0x154a7e73eb1b55f3e33cf11cb864a087d50014d14b2729b77f9182c3a447d6ba
    0x43aabe696b3bb69ab41b670b1bbda72d270e0807d0bdd1fcbcbbdbf1812a8285,
  anielsOf
    0x461bea69283c927e71b2528228542e497470353ab39dc0d26b1a5cd0944ea3bf
    0x1d6edd5d2e5317e09dea764f92192c3a6ca021533bba23a7ba6f2c9aaa3221b1
    0x7a9fbb1c6a0f90a7529c41ba5877adf3b3035f47053ea49af1836dc801b8b3a2,
  anielsOf
    0x34b9ed338add7f59ceb233c9c686f5b5a6509e6f51bc46c59b2e678aa6a8632f
    0x49c05a51fadc9c8f96cbc608e75eb04498a081b6f520419bf36e217e039d8064
    0x73c172021b008b06aaf6fc2993d4cf16e2ff83e8a719d22f06b4e8bf9045af1b,
  anielsOf
    0x4275aae2546d8faf113e847117703406e5d9fecf02302e272fbf00848a802ade
    0x18ab598029d5c77fa3a075556a8deb953ed6b36977088381315f5b0249864348
    0x3dc65522b53df94844311199b51a8622031eb4a13282e4a4d82b2cc5fd6089e9,
  anielsOf
    0x234fd7eec346f241537a0e12fb07ba07bf84b39ab5bcdedbbf70c222a2007f6d
    0x267882d176024a79d12b232aaad5968aefcebc99b776f6b506f013b327fbf93
    0x497ba6fdaa097863a2ef37f891a7e5332437e6b1df8dd4715360a119732ea378,
  anielsOf
    0x61e22917f12de72b2dbdbdfac1f2d4d08648c28d189c246d24cecc0313cfeaa0
    0x43b5cd4218d05ebf7508300807b25192d3829ba42a9910d6040bcd86468ccf0b
    0x511d61210ae4d842032e5a7d93d64270eb38af4e373fdeee5d9a762f9bd0b516]

/-- Entries 8 to 15: the multiples 17B to 31B. -/
def baseTable1 : List ANiels := [
  anielsOf
    0x6d325924ddb855e3aa9b36646f8f1248a54620cdc0d7044f92c676ef950e9d81
    0x71a7fe6fe248281039fa4e2729942d258a1cf016b592edb4081386484420de87
    0x4746c4b6559eeaa972cf591883778d0c33fd1479fe5f2a036c7182b8a5c8c854,
  anielsOf
    0x5c9a51de34fe9fb745651cf7b53a16b5defab2276f89f617d3777b3c6dc69a2b
    0x219663497db5e6d6ff939a760672a3327d35aedd0efcc849348546c864741147
    0x4804503c608223bb09c3a71710142277ffdddaa1e658515bf510f1cf79f10e67,
  anielsOf
    0x553398a51650696d88a96ed7c96e0e23a059a0e3a615acabc4249ed02ca37fc7
    0x771e098858de4c5e5d9e5ce420838a47bbb40aa7e99b9e323b6821d23a36d175
    0x5a5ed1d68ff5a611477f4a2d9fa595083ada5d7985899ccb9a12f5d278451edf,
  anielsOf
    0x44acb897d8bf92f07387f8291e711e20cf209a257e4b35d81195122afe150e83
    0x19b60135fefdc4428653c1eda1cabe9392e5c19cadb9d7ebae5e0c558527359
    0x150c49fde6ad2f92506e88a8fc1a3ed7c4f5e64f24304c161e6068145e134b83,
  anielsOf
    0x6b2b5a075bb9992210af79c425a708ad5d6fef394f75a6518e7bf29509471138
    0x78a6d7791e05fbc1fe3ee3560c36168dc83f44dbb8714ad0b849863c9cdca868
    0x725c7ffc4ad55d00aa2b1fb1d542f590a601b355741748d558bf704b47a0b976,
  anielsOf
    0x794cc9277cb1f3a323d1157b8b12109f7352d51102a20d34e4426715d1cf99b2
    0x4cd54625f855fae7df585d714902994cfe416ca4ed5e636691802bf71cd098c0
    0x7008357b6fcc8e852ad032f10a311021bc9aedad32f672584af6c426c2ac5053,
  anielsOf
    0x6ef7e9851ad0f6a8d2dd5a3b9ad29b6b8ccc8fa95fbccfb0b88672738773f01
    0x13a92a3669d6d428b631639c4853620247ab6463d2b4792bd01b9fbb82584a34
    0x3c296ddf8a2af86a24680f01d802e0717540e41e5035dc5cca93771cc0577de5,
  anielsOf
    0x7a99d393490c77baaff823179f53d730a92f7bf98c8ff912aead15f9d914a713
    0xa892c700747717bfc71a37dd0a1ad05b89510c740adb91ffceb4d2ebb1f2541
    0x286762d28302f7d2a5a96563262f9ce077a8c84157e807948f52ed2436bda3e8]

/-- Entries 16 to 23: the multiples 33B to 47B. -/
def baseTable2 : List ANiels := [
  anielsOf
    0x32f1da046a9d9d3a0cc192d3cbc7b83f82e1181db26baa974e7836093ce35b25
    0x7686f2a3d6f1767a154a179f3bbb89b8e4986cb46747bc637c558e2bce2ef5bd
    0x561305f8a9ad28a63f91dc73c209b0228f11930304d3852baa8d12a66d597c6a,
  anielsOf
    0xaaec53e35d4d2c83131b22d847ba48ca43d5434d6d73e5100c978dec92aed1
    0x30a1aef2c57cc6ccaf68da7d7010a61709de9bbdb075c536722cc28e7b0c0d5
    0x20be9c1c240654807821dc86520ed23e0b3f29802b2166087bb1f773003ad2aa,
  anielsOf
    0x750ab3361f0ac1de1c7f9a81c36f63b55943bc2df546e493e15387d8249673a6
    0x69764c545067e311105d639cf95a0d1cb03b3b2fcbdcb93820e0e44ae2025e60
    0x54f96b3fb7075040b72fd15bac2e25636f2eda23bd7fcbf11e8a3283a2f81037,
  anielsOf
    0x3d7fe9c52bb7539e6f3d94828c5760f13adda2047d7d724a0fadf20429669279
    0x78e6839fbe85dbf0b7a8a110e6ece78589764b9cfa576479177dafc616b11ecd
    0x70f268f350088242320ff74aa0e59e2275d05d43041a178a70332df737b8856b,
  anielsOf
    0x7c0d345cfad889d9e9874eb71e4cb006f535c5d160dd7c1966864583b1805f47
    0x404e56c039b8c4b9b31ddeed3552b698380cc97ee7fce1172324112070dcf355
    0x20d754762aaec7775cbc4152b45f3d44a0366ab167e0b5e1591f1f4b8c78338a,
  anielsOf
    0x2b8f1e46f3ceec62a9934a7d903bc922ace543a5363cbb9a5e8fc36fc73bb758
    0x38b8ada8790b4ce1e9322b0757138ba984b37df1de8c956c9d74feb135b9f543
    0x49aeb32ceba19531d106d8b328b66da2b3952aecb1fdeacb5c04a9cdf51f95d,
  anielsOf
    0x795ee17530f674fc1d82542b396b39300fef924b7a6725d3aa507d0b75fc7931
    0x51c665e0c8d625fcb6676861e14f7c13209c594897856e40d7767d3c63dcfe7e
    0x6cd19bf49dc54477e6a24d0dcaee4a315d411f6ee034afe7254a5b0a52ecbd81,
  anielsOf
    0x5e01b3a7429e43e776f6627e20990baa082a2a88b8d51b101ffe612165afc386
    0x7520f3db40b2e63880a2baa88499711e571d0a060b2c9f857e87619052179ca3
    0x71092c9ccef3c9861a309a64df311e6e967b6cdd599e94a53db50be3d39357a1]

/-- Entries 24 to 31: the multiples 49B to 63B. -/
def baseTable3 : List ANiels := [
  anielsOf
    0x4173a5bb7137abde3a4ae7cbc9743ceb03f6a40855b7aa1e856bd8ac74051dcf
    0xea15b03d0257ba7080b4a9e6681e5a4a2b404f43fab6b1c53d8523f0364918c
    0x5fc565614a4e3a67f7931668f4b2f1765a696e2b1afc470817c56e31f0f9218a,
  anielsOf
    0x3214c7409d46651be3b0819ae5923eed01d5950f1c5cd7224892e1e67790988e
    0x62711c414c454aa159549f03310dad860fd0aacc54f8dc8f136e570dc46d7ae5
    0x5bea94073ecb833cd9b6b8ec185d223c3ba4a0668a2794361329827406651770,
  anielsOf
    0x4ad0785944f1bd2f35da51a1a2117b6f0067ba8f0543e8f1b470ce63f343d2f8
    0x3aacd5c148f61eecabfe9e02f697b065acf38b317d6e579c641dbf0912c89be4
    0x3aff0cb1d902853d34085b2ed39da88cdc99c04707316826858e3b34c3318301,
  anielsOf
    0x2ccf9f732bd99e7f09ef33788fd327c668e49c13261f22839226430bf4c53505
    0x110e7e86f4cd251d29252e48ad29d5f98ee311efedad56c987c5c7eb3a20405e
    0x5c557e0b9693a3753172709a02e3bb712888628f0b0200c57c0d89ed603f5e4,
  anielsOf
    0x289fef0841861205b6b93f4e634421fb61f85bf6fa0fd85cf776bbb089c20eb0
    0x6e154c178fe9875ae15b7ea08bed25dd7a3f263011f9fdaed8f9ce311fc97e6f
    0x6afbf642a95ca31913789765753a7fe79b16e4e78335c94fcf616336fed69abf,
  anielsOf
    0x12c093cedb801ed9da2956b690ead4897d1d167b2b0cf5615de55070f913a8cc
    0xdb4b851b95038c47deb6ada0dad70e098fc3da4b00e7b9a7da8de0c62f5d2c1
    0x33aa8799c6635ce6cee75572dac7d7fd06969da0a11ae310fc147f9308b8190f,
  anielsOf
    0x212cd0c1c8d589a6e2262d5c87ca5ab66da2ba9b1a0a6d278348f588fc156cb1
    0x233c6f29e8e21a866ec2bfe15060033c78f51a8967d33f1faf0ff51ebd085cf2
    0x1db7778911914ce3a70a862a3d3d3341122ecdf2527e9d28d2f4d5107f18c781,
  anielsOf
    0x7ae2ca8a017d24be15df4161fd2ac852e2b8ded419cf8da5b3394769dd701ab6
    0x31ad97ad26e2adfc7c74f43abf79a3307a97e2cc53d50113ddf352397c6bc26f
    0x1ed1fc53a6622c83e491c14f25560a641e8518cc3f19da9db7e817ed0920b962]

/-- Entries 32 to 39: the multiples 65B to 79B. -/
def baseTable4 : List ANiels := [
  anielsOf
    0x503d664a57aa24ad3e19167bbf3712fb73504898c9bf388e8bfe42a61c092d2d
    0x5b12b36f28bc0aa323db7e6d0485c45cb382df288570b7e7f4b9e98e4d89f26e
    0x36906685e9a1f8e3192a023e0c8e8bfab9ba83f7cf37e5f2ca1b395b90a91537,
  anielsOf
    0x355dccf04805c3a5eb27ee64be5b3d392fcf1dd2138b57e4544cbe3c4fd8781d
    0x5b1112708474b19e56011dc0abd8215ba4700cfa31d75c7c6b190dd8b8699e48
    0x584587b225ae4f65b138b588b65981961fb65ee757f6567fcbbd984dcb3c75db,
  anielsOf
    0x5e27ba4b982ac548b4fffd380b2218b84eb616ccb9197c44855c10f66a67ed6
    0x3d8918fb87d11eefdb481808a9805bb75435d15b33bc2bee3393a363f12f57a6
    0x7f8f3424d64a55da6b61108eeb682acfe5aeadb0de2a10863f06a67d1e5a864d,
  anielsOf
    0x7e755cba0310f265af5231a47a45654f9548ed1ec442fde27b1a4807b24886af
    0xcaa7059c32356c4aafdfe16ce23bcc3ee1bf0c768f0f68b0ed6293624794ed1
    0x4536c2aee70b3230e246f40cfde45959a64e1a882696f6689afc4f52761a3023,
  anielsOf
    0x6a15d0f5ca4497b3dc605fed0f63168b9a38bf74652157b88ce3eff321ccb9c3
    0x7bbdf8041ba47471fe1bf852fe71018d6eb4e737f02fc226e019a302599db7fa
    0x55c206d4035cdb7afb2f399a36978858dc24eaf9e221c4f08e0de1f109bfa8d5,
  anielsOf
    0x5cd6b3922ee71c250f99db5c214a59cb8227d19e1431c8e30a27faad90de7625
    0x278fc8bcd74e9eb8599c14c00d1e9efc02b3db6ad6cf64f971538159b8443d37
    0x468615291ab8842853f4309ee0cd142be111126e7a37a7bef03ca994d633ebc7,
  anielsOf
    0x5523e2f353889485f4ad215318e2792bed2229eacdfd6b672c403851d54ceb6f
    0x636db66a5894edd3dc18b38f13d4fbcff5c506a0f0579f9771a1099c54a5efd2
    0x5288cf65559b0f9888f5a27cb3c84c350f6125ab65a3f1e29afa536e7bd0d4de,
  anielsOf
    0x12c70c85f45241d25fee4f89484bbafbfcb1fb13e5570e710f92b629f0d9881c
    0x63f01b555a9646146dd6f2c60f76892958feabbaea812a3fb295c8c50a97289b
    0x437165416ab629553c939f69d4d5335160299307d30960cc6a45bda5e538767f]

/-- Entries 40 to 47: the multiples 81B to 95B. -/
def baseTable5 : List ANiels := [
  anielsOf
    0x46fe985f1b9721b76b7819199980dd1fad81bfbae4b6778de1d5b1fbddfdad86
    0x3ea46dc72c2dd23c8465234f47f364755036a4d0f4953a7161300a2836e64b9a
    0x88b0ca7df43294e6a0e5e97d89c74e56739f401fd075eea9ff5018588e2dfa7,
  anielsOf
    0x3c755700af5ee893fa9f0e23f535a3df0ebb9d53a8e51d9410670e54fefe6cc0
    0x7d5b0546110e1379ed8fa1d695119b5876d08ebe7e436fcd264445337c54aa9d
    0x1ae5c564b3a77aad64164668d421c0d7aaf8fe7b0afb01f3789f3a96d7c70596,
  anielsOf
    0x201a641198d926634500e7c00885e2a413fbe6d47c6a5b84da09ad4c0302594b
    0x5d9cf1e818af17860f307ce81e745d9049e5adc4c8a5b2a5fd88e6863e708d5b
    0x3aa0a0c361fe0b265579493cdc424c4b2bdbaaaa62b8c41f5bda1d3be2a1592b,
  anielsOf
    0x3e6190f708b203404726e9dd5c77a544c7d012ab660f838d941c5fe508dff693
    0x6ee309f230d1a129b0aa755c9e78b3308ce0c10250067169067c6e21e149ef2e
    0x64cde98364f1d74b617424f7b0e849ad7a22228f547ec2093948ae32ac67b877,
  anielsOf
    0x19767cc1442030072d22795787953b0fb8b41b10c61f05c842feb982b66c4ffa
    0x2c41a80e5b45383184f2fda400294fb37d38f68fbe1f51f7270fd6e4071f6450
    0x393bc7b77c81c3e8af0cb14fdaca4ec472eeef35978e184d05be0fe08e9dc54b,
  anielsOf
    0x6ebb5599ac3d36967becb9f64905d2b4568513fa38cd6ec9b13b67a868cd8c15
    0x7c0cebbd0ca4ee63f7b9153bc5c0c17a9f5cb50d883b9b0ae9bb8645b73f4755
    0x7cead1176a994c8c306604d0cfac969b266debe5677e65fa429cc5da306059bd,
  anielsOf
    0x7b816374fe4d0adcdd36b61c27b01208472b3b3d7b8c9150621b1e08c64de622
    0x32e73d7c414d75517fcb93e1232ee3d313328741d66c12c336fe4cdb68564783
    0x6f56ae3ce96f01638f279c75d65fa4145c3c7d0f88ca735852971bc104113fcc,
  anielsOf
    0x2bcbc96fc92ab0e94573db8e664d36bf81665fa0f3257935477aa3e186f6b4b9
    0x6ff27a9feafb3d179b8d37a2d4f2f726df936b434616d65d5d3896ed8c1e9273
    0x72b5a5b6de2848cd50e00475a46e2c35f033b146a881ce416c09f73e611f6329]

/-- Entries 48 to 55: the multiples 97B to 111B. -/
def baseTable6 : List ANiels := [
  anielsOf
    0x3485a7aa6fde7d086ba40318852439779a1c97a3633fa3073c712c4628a337c3
    0x61aa1160d97b7167fc516b395d91401df8dd09994bef14abf1369774ed68e720
    0x2c6ce0503ee8d142b373ecf168e0884c374bcb75d5862d9725348a7b7f55128e,
  anielsOf
    0xf8c2b53783393a70ee0a9b803128a43340cece1e021e31e894f17e676469b1a
    0xe77ad1d926497a9e4eee56c9af6921a5e96ccdc292a44f28d82dfb19c632889
    0x4cc1e54c7258ddf578e002eeb89dad4fdd40e090a80d19de2f1a301df2db5c75,
  anielsOf
    0x7294f2237a32de778645c39ffe3413f9031ea7947980bd38b89be1d86b3ae19c
    0x62ef3fdce75142e4f5c9aea740a9bb66f4261f78644e48fbf3fcc0667543638e
    0x1928c87d156662a4bda9ce374f0265de9ed1dd9e3869f2436e588017f77d3efd,
  anielsOf
    0x4ae0ec1d4499fa945755a86075ce291b2da9a2cab59758c64a3847d566087229
    0x77db41774458f630420474ed08bd2c996feb7fbd9644f5f51b0c955ab57e2130
    0x17f1b3461da3170eaebfa49793d0bfc4866b1d980ce07dd583d6cb9ba2be7da7,
  anielsOf
    0x78a82c43f443d24dabc758e794417b00bac75d4ee3e4e79a09a16b3d036c2886
    0x3d9b99a13ada9626d1762d7b4576a7352ca3611a7b6710e58e4c199b3403ce52
    0xb49208bd81bb3904539a75af7c4ac7fefd139eb4469474e056b8112702675c4,
  anielsOf
    0x3e40a64da2d51448c16393986f009808eac8ed716e98eed603fd50fb0a0d0782
    0x157ee7b2e1f2852187ac12fcf368d80e7b3d1775c49584c135badcb32d287241
    0x5a277115c55fbeb41f5baef6f12e3f952522d09bc73ffcbd97f5a52e9dca709f,
  anielsOf
    0xf4e191892dd3d73e3636e504e122e6e273c7b386fde31b27b40d921e5854c55
    0x4689b02ab17dfeee4f382d7d586db8f0c87ec77fd587a7c2ab123015328300cc
    0x3b2432ebc9edd62786f493945f708794e1f46058d922b5bdc3bd1c12ec4132ed,
  anielsOf
    0x361fd1330328d0c1b4222b623836c62fa42b5a086f398c281700899781c7d8ef
    0x6c55c1f2ab2dbbb98dff3409edc0963d0dd9373831c17c95bbbeccc2b78c2e59
    0x3cd845a927b2c486b1596816d4fa0444b897391177c50f44d22b0c8165159986]

/-- Entries 56 to 63: the multiples 113B to 127B. -/
def baseTable7 : List ANiels := [
  anielsOf
    0x45f998ac7247f2ad556ab0a2481b8e75fbea3365e8f82ff512f506d72c1951df
    0x36121e8a0da91ad10f566b56d20e46dc40722a7e78d75eb71d1715addf6fd3b0
    0x23b086cf066d531bff46c2d572544cced6e1434c46695337a40b0728c55d3ecd,
  anielsOf
    0x16c5fa19014f161544fe4535012cbc39bd7ca4098634ba318d666080b4bdd58f
    0x1ebb5388c6e8a74ea3385092cd28f32b1d4514237c16905c36b5118ea05195e
    0x4864ef1818473050affd29c356960710c98ff8c5cb9ce8950f45416ee772f53b,
  anielsOf
    0x26c03aed7f6bc250e66f3e9b04153ef4864eeb9bb91c3428cd0da83a0bd0b830
    0x2a7adc0c34dbaf6c5cc04b883b623c0f3447c7ab2068d38ef817c33297639ab3
    0x78b5169959e1d75490d94a7bb989a43c3a9e89604829a96d961e7a2f581c7dce,
  anielsOf
    0x457ec0224bcd21b41dcb8a165586a836e6fe953a574dd32bf95cc85a5769cc40
    0x2314bc90371e70927572a35488e711f75061507fce9d46510f98254df5d180d
    0x79572c534fcf0a49bb8b7936ea84cefa16bbb31dfb553ad379e8aefe8f26908a,
  anielsOf
    0x7890c0b6e7f19a1c1493f6ab9688c9a45f372623906404c4343b4300e0749597
    0x70ddf8d98b60ef3f043337880d96ea04bb0a0dbab92cc1b9239db23ca35b2d6f
    0x45769691e89a70aa2b58e231ecb48485a3b303985af8169bf49140b7fdd75dc4,
  anielsOf
    0x2ec0f706b05c7c788bae741056679d90885cfed9e9b91b6b390e3ddc5ba643ad
    0x10b74232f01c1d8202235defdd55e17d47a9cc35ec02eb9b54e3e305345b2ddb
    0x5d6fa9d25a3f46a79050b66e2a4e1470894dee1fbe3d0c7cfc3a1694608f59d8,
  anielsOf
    0x574fa41887c9e71c064ccbf6189f9cada66ced079df00e65ac2c5afeb2a3a6dd
    0x645e704f775f697a797ff5f7f57d26462a69cc012f223e5246df4185e46e6cbb
    0x7420e574dcaab932f2355982294e15110f3a73ed122ee7d8c92d29dade891efa,
  anielsOf
    0x2ba60fa9c3cdc075454b33b093c454a5c87b61e69b421c10f83e6e3f94234b1c
    0x44ef4632b581b3d328ae39018d46e4a60fe6202f46f9d39df766a138a034513c
    0x7054899c44b5f3cf56f511d9c0071c9745da3bac65224a25a3d6491c21d364c9]

/-- The 64 entries of the table (R327). -/
def baseTable : List ANiels :=
  baseTable0 ++ baseTable1 ++ baseTable2 ++ baseTable3 ++ baseTable4 ++ baseTable5 ++ baseTable6 ++ baseTable7

end Sys2Proof.Machine
end

