-- ==== Sys2Proof/Machine/Mult.lean ====
section
/-! DEFINITION. The multipliers of 44_scalarmul_msm.md: fixed-window scalar multiplication (R321, R322, R325), NAF
tables and double-scalar multiplication (R326 to R329), Straus multiscalar multiplication (R333). Tables live inside
a command (10_state.md R55). -/
namespace Sys2Proof.Machine

/-! ### Tables -/

/-- `n` further table entries after `t`, each `e2pn(c2e(add(q, previous)))` (R321, R326). -/
def tableFrom (q : Ext) (t : PNiels) : Nat → List PNiels
  | 0 => []
  | n + 1 => strictPN (e2pn (c2e (addPN q t))) fun t' => t' :: tableFrom q t' n

/-- `lut_build(P)`: the consecutive multiples `1P .. 8P` (R321). -/
def lutBuild (e : Ext) : List PNiels := strictPN (e2pn e) fun t => t :: tableFrom e t 7

/-- `naf5_build(P)`: the odd multiples `1P, 3P, .., 15P` (R326). -/
def naf5Build (e : Ext) : List PNiels :=
  strictExt (edbl e) fun e2 => strictPN (e2pn e) fun t => t :: tableFrom e2 t 7

/-- `|x|` of an `i8`, computed on 16 bits by the sign mask `x >> 7` (R322). -/
def absDigit (x : Byte) : BitVec 16 :=
  let w := x.signExtend 16
  let m := w.sshiftRight 7
  (w + m) ^^^ m

/-- The scan of `lut_select`: every entry is read, the one whose index is `|x|` is assigned (R322). -/
def lutScan (xabs : BitVec 16) : List PNiels → Nat → PNiels → PNiels
  | [], _, r => r
  | t :: ts, j, r => strictPN (selPN r t (xabs == BitVec.ofNat 16 j)) fun r => lutScan xabs ts (j + 1) r

/-- `lut_select(t, x)`, `−8 <= x <= 8` (R322). -/
def lutSelect (t : List PNiels) (x : Byte) : PNiels :=
  cnegPN (lutScan (absDigit x) t 1 pnielsIdentity) (x.slt 0)

/-! ### Fixed-window scalar multiplication -/

/-- Four doublings of the accumulator (R325). -/
def dbl4 (acc : Compl) : Compl :=
  strictCompl (dbl (c2p acc)) fun acc =>
  strictCompl (dbl (c2p acc)) fun acc =>
  strictCompl (dbl (c2p acc)) fun acc => dbl (c2p acc)

/-- The loop of PT_SMUL: the digits at the positions below `i`, high to low (R325). -/
def smulLoop (t : List PNiels) (e : List Int) : Nat → Compl → Compl
  | 0, acc => acc
  | i + 1, acc =>
    strictCompl (dbl4 acc) fun acc =>
    strictCompl (addPN (c2e acc) (lutSelect t (digitByte (e.getD i 0)))) fun acc => smulLoop t e i acc

/-- PT_SMUL's `[n]P` (R325): exactly 64 digits, high to low, four doublings between them. -/
def smul (q : Ext) (n : Nat) : Ext :=
  let t := lutBuild q
  let e := scRadix16 n
  strictCompl (addPN extIdentity (lutSelect t (digitByte (e.getD 63 0)))) fun acc => c2e (smulLoop t e 63 acc)

/-! ### Digits of a NAF -/

/-- The digit `x` of a scalar applied with a table of PNIELS odd multiples (R328). -/
def applyPN (t : List PNiels) (x : Int) (acc : Compl) : Compl :=
  if 0 < x then addPN (c2e acc) (t.getD ((x - 1) / 2).toNat pnielsIdentity)
  else if x < 0 then subPN (c2e acc) (t.getD ((-x - 1) / 2).toNat pnielsIdentity)
  else acc

/-- The digit `x` of a scalar applied with a table of ANIELS odd multiples (R328). -/
def applyAN (t : List ANiels) (x : Int) (acc : Compl) : Compl :=
  if 0 < x then addAN (c2e acc) (t.getD ((x - 1) / 2).toNat anielsIdentity)
  else if x < 0 then subAN (c2e acc) (t.getD ((-x - 1) / 2).toNat anielsIdentity)
  else acc

/-! ### Double-scalar multiplication -/

/-- The largest index up to the given one with a nonzero digit in either list; 0 if there is none (R329). -/
def topIndex (an bn : List Int) : Nat → Nat
  | 0 => 0
  | i + 1 => if an.getD (i + 1) 0 ≠ 0 ∨ bn.getD (i + 1) 0 ≠ 0 then i + 1 else topIndex an bn i

/-- One position of PT_DSMB: a doubling, the digit of `A`, then the digit of `B` (R329). -/
def dsmbStep (an bn : List Int) (tA : List PNiels) (i : Nat) (r : Proj) : Proj :=
  strictCompl (dbl r) fun acc =>
  strictCompl (applyPN tA (an.getD i 0) acc) fun acc =>
  strictCompl (applyAN baseTable (bn.getD i 0) acc) fun acc => c2p acc

/-- The loop of PT_DSMB from position `i` down to 0 (R329). -/
def dsmbLoop (an bn : List Int) (tA : List PNiels) : Nat → Proj → Proj
  | 0, r => dsmbStep an bn tA 0 r
  | i + 1, r => strictProj (dsmbStep an bn tA (i + 1) r) fun r => dsmbLoop an bn tA i r

/-- PT_DSMB's `[a]A + [b]B` (R329). -/
def dsmb (a : Nat) (q : Ext) (b : Nat) : Ext :=
  let an := scNaf a NAF_W_A
  let bn := scNaf b NAF_W_B
  p2e (dsmbLoop an bn (naf5Build q) (topIndex an bn 255) projIdentity)

/-! ### Multiscalar multiplication -/

/-- The recoded scalar and the table of one pair (R333). -/
def msmPrepare (q : MsmPair) : List Int × List PNiels := (scNaf q.scalar.toNat NAF_W_MSM, naf5Build q.point)

/-- The digits of all pairs at position `i` applied in push order (R333). -/
def msmApply (i : Nat) : List (List Int × List PNiels) → Compl → Compl
  | [], acc => acc
  | pr :: prs, acc => strictCompl (applyPN pr.2 (pr.1.getD i 0) acc) fun acc => msmApply i prs acc

/-- The loop of MSM_RUN: `i` positions remain (R333). -/
def msmLoop (prs : List (List Int × List PNiels)) : Nat → Proj → Proj
  | 0, r => r
  | i + 1, r =>
    strictCompl (dbl r) fun acc =>
    strictProj (c2p (msmApply i prs acc)) fun r => msmLoop prs i r

/-- MSM_RUN's `sum of [s_k] Q_k`, Straus, positions 255 down to 0 (R333). -/
def msmSum (prs : List MsmPair) : Ext := p2e (msmLoop (prs.map msmPrepare) 256 projIdentity)

end Sys2Proof.Machine
end

