-- ==== Sys2Proof/Machine/MultCmds.lean ====
section
/-! DEFINITION. The multiplier commands, 44_scalarmul_msm.md R325, R329, R331 to R333. -/
namespace Sys2Proof.Machine

/-- PT_SMUL: `[n]P`, constant-time (R325). -/
def execPtSmul (d a b : RegNo) (s : State) : Result :=
  command (.ptSmul d a b) s do
    let q ← s.srcP a
    let n ← s.srcS b
    let e ← q.asExt
    return s.writeP d (.ext (smul e n.toNat))

/-- PT_DSMB: `[S[a]] P[b] + [S[c]] B` (R329). -/
def execPtDsmb (d a b c : RegNo) (s : State) : Result :=
  command (.ptDsmb d a b c) s do
    let m ← s.srcS a
    let q ← s.srcP b
    let n ← s.srcS c
    let e ← q.asExt
    return s.writeP d (.ext (dsmb m.toNat e n.toNat))

/-- MSM_CLR: empty the pair list (R331). -/
def execMsmClr (s : State) : Result :=
  command .msmClr s (.ok { s with msm := [] })

/-- MSM_PUSH: append a pair; MSM_FULL on a full list (R332). -/
def execMsmPush (a b : RegNo) (s : State) : Result :=
  command (.msmPush a b) s do
    let n ← s.srcS a
    let q ← s.srcP b
    let e ← q.asExt
    if s.params.msmCap ≤ s.msm.length then .error .msmFull
    else return { s with msm := s.msm ++ [⟨n, e⟩] }

/-- MSM_RUN: `sum of [s_k] Q_k` over the list, which is emptied; MSM_EMPTY on an empty list (R333). -/
def execMsmRun (d : RegNo) (s : State) : Result :=
  command (.msmRun d) s do
    if s.msm.length = 0 then .error .msmEmpty
    else return { s.writeP d (.ext (msmSum s.msm)) with msm := [] }

end Sys2Proof.Machine
end

