-- ==== Sys2Proof/Machine/PointCmds.lean ====
section
/-! DEFINITION. The point commands, 43_point.md R270 to R294. -/
namespace Sys2Proof.Machine

/-- The shape of a command with one `EXT` source and a point destination. -/
def fromExt (i : Instr) (f : Ext → Point) (d a : RegNo) (s : State) : Result :=
  command i s do
    let q ← s.srcP a
    let e ← q.asExt
    return s.writeP d (f e)

/-- The shape of a command with one `PROJ` source and a point destination. -/
def fromProj (i : Instr) (f : Proj → Point) (d a : RegNo) (s : State) : Result :=
  command i s do
    let q ← s.srcP a
    let e ← q.asProj
    return s.writeP d (f e)

/-- The shape of a command with one `COMPL` source and a point destination. -/
def fromCompl (i : Instr) (f : Compl → Point) (d a : RegNo) (s : State) : Result :=
  command i s do
    let q ← s.srcP a
    let e ← q.asCompl
    return s.writeP d (f e)

/-- The shape of a predicate of one `EXT` source: `C[d] <- f(P[a])`. -/
def extTest (i : Instr) (f : Ext → Bool) (d a : RegNo) (s : State) : Result :=
  command i s do
    let q ← s.srcP a
    let e ← q.asExt
    return s.writeC d (f e)

/-- The shape of a command with two `EXT` sources and an `EXT` destination. -/
def extBinary (i : Instr) (f : Ext → Ext → Ext) (d a b : RegNo) (s : State) : Result :=
  command i s do
    let q ← s.srcP a
    let r ← s.srcP b
    let e ← q.asExt
    let e' ← r.asExt
    return s.writeP d (.ext (f e e'))

/-- PT_IDENT: load the identity (R270). -/
def execPtIdent (d : RegNo) (s : State) : Result :=
  command (.ptIdent d) s (.ok (s.writeP d (.ext extIdentity)))

/-- PT_BASE: load the basepoint (R271). -/
def execPtBase (d : RegNo) (s : State) : Result :=
  command (.ptBase d) s (.ok (s.writeP d (.ext extBase)))

/-- PT_MOV: copy, any tag (R272). -/
def execPtMov (d a : RegNo) (s : State) : Result :=
  command (.ptMov d a) s do
    let q ← s.srcP a
    return s.writeP d q

/-- The two outcomes of PT_DECOMP: the point and choice 1, or the register left EMPTY and choice 0 (R273). -/
def storeDecomp (d a : RegNo) (s : State) : Option Ext → State
  | some e => (s.writeC a true).writeP d (.ext e)
  | none => (s.writeC a false).setP d none

/-- PT_DECOMP: decompress a slot; an invalid encoding is no fault (R273). -/
def execPtDecomp (d a : RegNo) (imm : Imm) (s : State) : Result :=
  command (.ptDecomp d a imm) s (.ok (storeDecomp d a s (decompress s.params.rejectNegZero (s.readSlots imm 1))))

/-- PT_COMP: compress an `EXT` point to a slot (R274). -/
def execPtComp (a : RegNo) (imm : Imm) (s : State) : Result :=
  command (.ptComp a imm) s do
    let q ← s.srcP a
    let e ← q.asExt
    return s.writeSlots imm (compress e)

/-- PT_E2P: `EXT` to `PROJ` (R275). -/
def execPtE2p (d a : RegNo) (s : State) : Result :=
  fromExt (.ptE2p d a) (fun e => .proj (e2p e)) d a s

/-- PT_E2PN: `EXT` to `PNIELS` (R276). -/
def execPtE2pn (d a : RegNo) (s : State) : Result :=
  fromExt (.ptE2pn d a) (fun e => .pniels (e2pn e)) d a s

/-- PT_E2AN: `EXT` to `ANIELS` (R277). -/
def execPtE2an (d a : RegNo) (s : State) : Result :=
  fromExt (.ptE2an d a) (fun e => .aniels (e2an e)) d a s

/-- PT_P2E: `PROJ` to `EXT` (R278). -/
def execPtP2e (d a : RegNo) (s : State) : Result :=
  fromProj (.ptP2e d a) (fun e => .ext (p2e e)) d a s

/-- PT_C2P: `COMPL` to `PROJ` (R279). -/
def execPtC2p (d a : RegNo) (s : State) : Result :=
  fromCompl (.ptC2p d a) (fun e => .proj (c2p e)) d a s

/-- PT_C2E: `COMPL` to `EXT` (R280). -/
def execPtC2e (d a : RegNo) (s : State) : Result :=
  fromCompl (.ptC2e d a) (fun e => .ext (c2e e)) d a s

/-- PT_DBL: doubling, `PROJ` to `COMPL` (R281). -/
def execPtDbl (d a : RegNo) (s : State) : Result :=
  fromProj (.ptDbl d a) (fun e => .compl (dbl e)) d a s

/-- PT_ADD: `EXT` plus a Niels form, to `COMPL` (R282). -/
def execPtAdd (d a b : RegNo) (s : State) : Result :=
  command (.ptAdd d a b) s do
    let q ← s.srcP a
    let r ← s.srcP b
    let e ← q.asExt
    let t ← r.addTo e
    return s.writeP d (.compl t)

/-- PT_SUB: `EXT` minus a Niels form, to `COMPL` (R283). -/
def execPtSub (d a b : RegNo) (s : State) : Result :=
  command (.ptSub d a b) s do
    let q ← s.srcP a
    let r ← s.srcP b
    let e ← q.asExt
    let t ← r.subFrom e
    return s.writeP d (.compl t)

/-- PT_NEG: group negation of `EXT`, `PNIELS` or `ANIELS` (R284). -/
def execPtNeg (d a : RegNo) (s : State) : Result :=
  command (.ptNeg d a) s do
    let q ← s.srcP a
    let r ← q.negate
    return s.writeP d r

/-- PT_CSEL: conditional select between two contents of one tag (R285). -/
def execPtCsel (d a b c : RegNo) (s : State) : Result :=
  command (.ptCsel d a b c) s do
    let q ← s.srcP a
    let r ← s.srcP b
    let k ← s.srcC c
    let t ← q.select r k
    return s.writeP d t

/-- PT_CNEG: conditional negate in place; `C[c]` is checked before `P[d]` (R286). -/
def execPtCneg (d c : RegNo) (s : State) : Result :=
  command (.ptCneg d c) s do
    let k ← s.srcC c
    let q ← s.srcP d
    let r ← q.condNegate k
    return s.writeP d r

/-- PT_CASSIGN: conditional assign in place; `P[a]`, `C[c]`, `P[d]` are checked in that order (R287). -/
def execPtCassign (d a c : RegNo) (s : State) : Result :=
  command (.ptCassign d a c) s do
    let r ← s.srcP a
    let k ← s.srcC c
    let q ← s.srcP d
    let t ← q.select r k
    return s.writeP d t

/-- PT_EQ: equality of compressed forms (R288). -/
def execPtEq (d a b : RegNo) (s : State) : Result :=
  command (.ptEq d a b) s do
    let q ← s.srcP a
    let r ← s.srcP b
    let e ← q.asExt
    let e' ← r.asExt
    return s.writeC d (pointEq e e')

/-- PT_ISSMALL: the small-order test (R289). -/
def execPtIssmall (d a : RegNo) (s : State) : Result :=
  extTest (.ptIssmall d a) isSmall d a s

/-- PT_ISIDENT: the identity test (R290). -/
def execPtIsident (d a : RegNo) (s : State) : Result :=
  extTest (.ptIsident d a) isIdent d a s

/-- PT_MULCOF: multiplication by the cofactor 8 (R291). -/
def execPtMulcof (d a : RegNo) (s : State) : Result :=
  fromExt (.ptMulcof d a) (fun e => .ext (mulcof e)) d a s

/-- PT_EADD: `EXT + EXT` (R292). -/
def execPtEadd (d a b : RegNo) (s : State) : Result :=
  extBinary (.ptEadd d a b) eadd d a b s

/-- PT_ESUB: `EXT − EXT` (R293). -/
def execPtEsub (d a b : RegNo) (s : State) : Result :=
  extBinary (.ptEsub d a b) esub d a b s

/-- PT_EDBL: `[2] EXT` (R294). -/
def execPtEdbl (d a : RegNo) (s : State) : Result :=
  fromExt (.ptEdbl d a) (fun e => .ext (edbl e)) d a s

end Sys2Proof.Machine
end

