-- ==== Sys2Proof/Machine/ScalarCmds.lean ====
section
/-! DEFINITION. The load, store and arithmetic commands of the scalar engine, 42_scalar.md R230 to R242. -/
namespace Sys2Proof.Machine

/-- The shape of a scalar command with one scalar source and one scalar destination: `S[d] <- f(S[a])`. -/
def scUnary (i : Instr) (f : Scalar → Scalar) (d a : RegNo) (s : State) : Result :=
  command i s do
    let x ← s.srcS a
    return s.writeS d (f x)

/-- The shape of a scalar command with two scalar sources and one scalar destination: `S[d] <- f(S[a], S[b])`. -/
def scBinary (i : Instr) (f : Scalar → Scalar → Scalar) (d a b : RegNo) (s : State) : Result :=
  command i s do
    let x ← s.srcS a
    let y ← s.srcS b
    return s.writeS d (f x y)

/-- SC_LD: load 32 bytes, bit 255 cleared, not reduced (R230). -/
def execScLd (d : RegNo) (imm : Imm) (s : State) : Result :=
  command (.scLd d imm) s (.ok (s.writeS d (BitVec.ofNat 256 (le (s.readSlots imm 1) % 2 ^ 255))))

/-- SC_LDW: load 64 bytes reduced modulo `l` (R231). -/
def execScLdw (d : RegNo) (imm : Imm) (s : State) : Result :=
  command (.scLdw d imm) s (.ok (s.writeS d (scFromWide (le (s.readSlots imm 2)))))

/-- SC_ST: store the 32 bytes as held (R232). -/
def execScSt (a : RegNo) (imm : Imm) (s : State) : Result :=
  command (.scSt a imm) s do
    let x ← s.srcS a
    return s.writeSlots imm (leBytes 32 x.toNat)

/-- SC_MOV: copy (R233). -/
def execScMov (d a : RegNo) (s : State) : Result :=
  scUnary (.scMov d a) id d a s

/-- SC_ADD: addition modulo `l` (R234). -/
def execScAdd (d a b : RegNo) (s : State) : Result :=
  scBinary (.scAdd d a b) scAdd d a b s

/-- SC_SUB: subtraction modulo `l` (R235). -/
def execScSub (d a b : RegNo) (s : State) : Result :=
  scBinary (.scSub d a b) scSub d a b s

/-- SC_MUL: multiplication modulo `l` (R236). -/
def execScMul (d a b : RegNo) (s : State) : Result :=
  scBinary (.scMul d a b) scMul d a b s

/-- SC_NEG: negation modulo `l` (R237). -/
def execScNeg (d a : RegNo) (s : State) : Result :=
  scUnary (.scNeg d a) scNeg d a s

/-- SC_RED: canonical reduction (R238). -/
def execScRed (d a : RegNo) (s : State) : Result :=
  scUnary (.scRed d a) scReduce d a s

/-- SC_ISCANON: canonicity test (R239). -/
def execScIscanon (d a : RegNo) (s : State) : Result :=
  command (.scIscanon d a) s do
    let x ← s.srcS a
    return s.writeC d (scIsCanon x)

/-- SC_MMUL: one Montgomery multiplication (R240). -/
def execScMmul (d a b : RegNo) (s : State) : Result :=
  scBinary (.scMmul d a b) scMmul d a b s

/-- SC_TOMONT: into the Montgomery domain (R241). -/
def execScTomont (d a : RegNo) (s : State) : Result :=
  scUnary (.scTomont d a) scToMont d a s

/-- SC_FROMMONT: out of the Montgomery domain (R242). -/
def execScFrommont (d a : RegNo) (s : State) : Result :=
  scUnary (.scFrommont d a) scFromMont d a s

end Sys2Proof.Machine
end

