-- ==== Sys2Proof/Machine/System.lean ====
section
/-! DEFINITION. The system command and the choice-bit commands, 40_system_choice.md R131 to R137. -/
namespace Sys2Proof.Machine

/-- The shape of CH_AND, CH_OR and CH_XOR: two choice sources, one choice destination (40_system_choice.md R135). -/
def choiceBinary (i : Instr) (f : Bool → Bool → Bool) (d a b : RegNo) (s : State) : Result :=
  command i s do
    let x ← s.srcC a
    let y ← s.srcC b
    return s.writeC d (f x y)

/-- NOP: no operation; it retires (R131). -/
def execNop (s : State) : Result :=
  command .nop s (.ok s)

/-- CH_SET: a choice bit is set to the immediate (R133). -/
def execChSet (d : RegNo) (imm : Imm) (s : State) : Result :=
  command (.chSet d imm) s (.ok (s.writeC d (bitOfImm imm)))

/-- CH_NOT: logical negation (R134). -/
def execChNot (d a : RegNo) (s : State) : Result :=
  command (.chNot d a) s do
    let x ← s.srcC a
    return s.writeC d (choiceNot x)

/-- CH_AND: logical and (R135). -/
def execChAnd (d a b : RegNo) (s : State) : Result :=
  choiceBinary (.chAnd d a b) choiceAnd d a b s

/-- CH_OR: logical or (R136). -/
def execChOr (d a b : RegNo) (s : State) : Result :=
  choiceBinary (.chOr d a b) choiceOr d a b s

/-- CH_XOR: exclusive or (R137). -/
def execChXor (d a b : RegNo) (s : State) : Result :=
  choiceBinary (.chXor d a b) choiceXor d a b s

end Sys2Proof.Machine
end

