-- ==== Sys2Proof/Machine/Dispatch.lean ====
section
/-! DEFINITION. The execution of a command accepted by CMD: one arm per command, each one call of its meaning. -/
namespace Sys2Proof.Machine

/-- A command accepted by CMD (40_system_choice.md R130), by its row of 30_encoding.md R107. -/
def exec (i : Instr) (s : State) : Host.Outcome State Fault Refusal :=
  match i with
  | .nop => Sys2Proof.Machine.execNop s
  | .chSet d imm => Sys2Proof.Machine.execChSet d imm s
  | .chNot d a => Sys2Proof.Machine.execChNot d a s
  | .chAnd d a b => Sys2Proof.Machine.execChAnd d a b s
  | .chOr d a b => Sys2Proof.Machine.execChOr d a b s
  | .chXor d a b => Sys2Proof.Machine.execChXor d a b s
  | .feLd d imm => Sys2Proof.Machine.execFeLd d imm s
  | .feSt a imm => Sys2Proof.Machine.execFeSt a imm s
  | .feConst d imm => Sys2Proof.Machine.execFeConst d imm s
  | .feMov d a => Sys2Proof.Machine.execFeMov d a s
  | .feAdd d a b => Sys2Proof.Machine.execFeAdd d a b s
  | .feSub d a b => Sys2Proof.Machine.execFeSub d a b s
  | .feNeg d a => Sys2Proof.Machine.execFeNeg d a s
  | .feMul d a b => Sys2Proof.Machine.execFeMul d a b s
  | .feSq d a => Sys2Proof.Machine.execFeSq d a s
  | .feSq2 d a => Sys2Proof.Machine.execFeSq2 d a s
  | .fePow2k d a imm => Sys2Proof.Machine.execFePow2k d a imm s
  | .feInv d a => Sys2Proof.Machine.execFeInv d a s
  | .fePowp58 d a => Sys2Proof.Machine.execFePowp58 d a s
  | .fePow22501 d a b => Sys2Proof.Machine.execFePow22501 d a b s
  | .feSqrtri d a b c => Sys2Proof.Machine.execFeSqrtri d a b c s
  | .feRed d a => Sys2Proof.Machine.execFeRed d a s
  | .feCsel d a b c => Sys2Proof.Machine.execFeCsel d a b c s
  | .feCneg d c => Sys2Proof.Machine.execFeCneg d c s
  | .feCassign d a c => Sys2Proof.Machine.execFeCassign d a c s
  | .feEq d a b => Sys2Proof.Machine.execFeEq d a b s
  | .feIsneg d a => Sys2Proof.Machine.execFeIsneg d a s
  | .feIszero d a => Sys2Proof.Machine.execFeIszero d a s
  | .scLd d imm => Sys2Proof.Machine.execScLd d imm s
  | .scLdw d imm => Sys2Proof.Machine.execScLdw d imm s
  | .scSt a imm => Sys2Proof.Machine.execScSt a imm s
  | .scMov d a => Sys2Proof.Machine.execScMov d a s
  | .scAdd d a b => Sys2Proof.Machine.execScAdd d a b s
  | .scSub d a b => Sys2Proof.Machine.execScSub d a b s
  | .scMul d a b => Sys2Proof.Machine.execScMul d a b s
  | .scNeg d a => Sys2Proof.Machine.execScNeg d a s
  | .scRed d a => Sys2Proof.Machine.execScRed d a s
  | .scIscanon d a => Sys2Proof.Machine.execScIscanon d a s
  | .scMmul d a b => Sys2Proof.Machine.execScMmul d a b s
  | .scTomont d a => Sys2Proof.Machine.execScTomont d a s
  | .scFrommont d a => Sys2Proof.Machine.execScFrommont d a s
  | .scRadix16 d a => Sys2Proof.Machine.execScRadix16 d a s
  | .scRadix2w d a imm => Sys2Proof.Machine.execScRadix2w d a imm s
  | .scNaf d a imm => Sys2Proof.Machine.execScNaf d a imm s
  | .dgSt a imm => Sys2Proof.Machine.execDgSt a imm s
  | .ptIdent d => Sys2Proof.Machine.execPtIdent d s
  | .ptBase d => Sys2Proof.Machine.execPtBase d s
  | .ptMov d a => Sys2Proof.Machine.execPtMov d a s
  | .ptDecomp d a imm => Sys2Proof.Machine.execPtDecomp d a imm s
  | .ptComp a imm => Sys2Proof.Machine.execPtComp a imm s
  | .ptE2p d a => Sys2Proof.Machine.execPtE2p d a s
  | .ptE2pn d a => Sys2Proof.Machine.execPtE2pn d a s
  | .ptE2an d a => Sys2Proof.Machine.execPtE2an d a s
  | .ptP2e d a => Sys2Proof.Machine.execPtP2e d a s
  | .ptC2p d a => Sys2Proof.Machine.execPtC2p d a s
  | .ptC2e d a => Sys2Proof.Machine.execPtC2e d a s
  | .ptDbl d a => Sys2Proof.Machine.execPtDbl d a s
  | .ptAdd d a b => Sys2Proof.Machine.execPtAdd d a b s
  | .ptSub d a b => Sys2Proof.Machine.execPtSub d a b s
  | .ptNeg d a => Sys2Proof.Machine.execPtNeg d a s
  | .ptCsel d a b c => Sys2Proof.Machine.execPtCsel d a b c s
  | .ptCneg d c => Sys2Proof.Machine.execPtCneg d c s
  | .ptCassign d a c => Sys2Proof.Machine.execPtCassign d a c s
  | .ptEq d a b => Sys2Proof.Machine.execPtEq d a b s
  | .ptIssmall d a => Sys2Proof.Machine.execPtIssmall d a s
  | .ptIsident d a => Sys2Proof.Machine.execPtIsident d a s
  | .ptMulcof d a => Sys2Proof.Machine.execPtMulcof d a s
  | .ptEadd d a b => Sys2Proof.Machine.execPtEadd d a b s
  | .ptEsub d a b => Sys2Proof.Machine.execPtEsub d a b s
  | .ptEdbl d a => Sys2Proof.Machine.execPtEdbl d a s
  | .ptSmul d a b => Sys2Proof.Machine.execPtSmul d a b s
  | .ptDsmb d a b c => Sys2Proof.Machine.execPtDsmb d a b c s
  | .msmClr => Sys2Proof.Machine.execMsmClr s
  | .msmPush a b => Sys2Proof.Machine.execMsmPush a b s
  | .msmRun d => Sys2Proof.Machine.execMsmRun d s
  | .ell2 d a => Sys2Proof.Machine.execEll2 d a s
  | .mtoe d a imm => Sys2Proof.Machine.execMtoe d a imm s

end Sys2Proof.Machine
end

