-- ==== Sys2Proof/Machine/Command.lean ====
section
/-! DEFINITION. What a 32-bit write of a word to CMD does (10_state.md R48). -/
namespace Sys2Proof.Machine

/-- A write of `w` to CMD (R48): ignored while a fault is recorded (60_exceptions.md R411); else the word is decoded
and executed, and a word that does not decode takes its fault (60_exceptions.md R410). -/
def acceptWord (w : Word) (s : State) : Result :=
  if s.fault then .next s
  else
    match decode s.params w with
    | .ok i => exec i s
    | .error k => .next (s.takeFault k w)

/-- The host's next bus event; with none, the block is idle and holds its state (60_exceptions.md R424). -/
def nextEvent (s : State) : Result :=
  match s.bus with
  | [] => .next s
  | e :: es => busEvent acceptWord e { s with bus := es }

end Sys2Proof.Machine
end

