-- ==== Sys2Proof/Machine/Step.lean ====
section
/-! DEFINITION. One step of the machine: the host's next bus event (20_memory.md R81). A write to CMD contains the
whole execution of its command (10_state.md R48). -/
namespace Sys2Proof.Machine

/-- One step. -/
def step (s : State) : Host.Outcome State Fault Refusal := nextEvent s

/-- The state in which the host's next bus event is a write of the word to CMD. -/
def State.withFetchWord (s : State) (nbits w : Nat) : State :=
  { s with bus := .write cmdOffset (BitVec.ofNat 32 (w % 2 ^ nbits)) :: s.bus }

end Sys2Proof.Machine
end

