-- ==== Sys2Proof/Machine/Timing.lean ====
section
/-! DEFINITION. The timing classes of 70_reset_and_hazards.md R445. They constrain implementations and tell the host
which commands may see secrets (R441); no result depends on them, and a command is one step whatever its class. -/
namespace Sys2Proof.Machine

/-- The timing classes (R445). -/
inductive TimingClass where
  /-- Constant-time: operations, addresses and duration are functions of the command word, of the EMPTY states and
  tags of the registers it names, and of the parameters. -/
  | ct
  /-- Variable-time: duration and operations may depend on operand values. -/
  | vt
deriving DecidableEq, Repr

/-- The timing class of a command (R445). MSM_PUSH is listed VT because it feeds MSM_RUN. -/
def timingClass : Instr → TimingClass
  | .nop => .ct
  | .chSet _ _ => .ct
  | .chNot _ _ => .ct
  | .chAnd _ _ _ => .ct
  | .chOr _ _ _ => .ct
  | .chXor _ _ _ => .ct
  | .feLd _ _ => .ct
  | .feSt _ _ => .ct
  | .feConst _ _ => .ct
  | .feMov _ _ => .ct
  | .feAdd _ _ _ => .ct
  | .feSub _ _ _ => .ct
  | .feNeg _ _ => .ct
  | .feMul _ _ _ => .ct
  | .feSq _ _ => .ct
  | .feSq2 _ _ => .ct
  | .fePow2k _ _ _ => .ct
  | .feInv _ _ => .ct
  | .fePowp58 _ _ => .ct
  | .fePow22501 _ _ _ => .ct
  | .feSqrtri _ _ _ _ => .ct
  | .feRed _ _ => .ct
  | .feCsel _ _ _ _ => .ct
  | .feCneg _ _ => .ct
  | .feCassign _ _ _ => .ct
  | .feEq _ _ _ => .ct
  | .feIsneg _ _ => .ct
  | .feIszero _ _ => .ct
  | .scLd _ _ => .ct
  | .scLdw _ _ => .ct
  | .scSt _ _ => .ct
  | .scMov _ _ => .ct
  | .scAdd _ _ _ => .ct
  | .scSub _ _ _ => .ct
  | .scMul _ _ _ => .ct
  | .scNeg _ _ => .ct
  | .scRed _ _ => .ct
  | .scIscanon _ _ => .ct
  | .scMmul _ _ _ => .ct
  | .scTomont _ _ => .ct
  | .scFrommont _ _ => .ct
  | .scRadix16 _ _ => .ct
  | .scRadix2w _ _ _ => .ct
  | .scNaf _ _ _ => .vt
  | .dgSt _ _ => .ct
  | .ptIdent _ => .ct
  | .ptBase _ => .ct
  | .ptMov _ _ => .ct
  | .ptDecomp _ _ _ => .ct
  | .ptComp _ _ => .ct
  | .ptE2p _ _ => .ct
  | .ptE2pn _ _ => .ct
  | .ptE2an _ _ => .ct
  | .ptP2e _ _ => .ct
  | .ptC2p _ _ => .ct
  | .ptC2e _ _ => .ct
  | .ptDbl _ _ => .ct
  | .ptAdd _ _ _ => .ct
  | .ptSub _ _ _ => .ct
  | .ptNeg _ _ => .ct
  | .ptCsel _ _ _ _ => .ct
  | .ptCneg _ _ => .ct
  | .ptCassign _ _ _ => .ct
  | .ptEq _ _ _ => .ct
  | .ptIssmall _ _ => .ct
  | .ptIsident _ _ => .ct
  | .ptMulcof _ _ => .ct
  | .ptEadd _ _ _ => .ct
  | .ptEsub _ _ _ => .ct
  | .ptEdbl _ _ => .ct
  | .ptSmul _ _ _ => .ct
  | .ptDsmb _ _ _ _ => .vt
  | .msmClr => .ct
  | .msmPush _ _ => .vt
  | .msmRun _ => .vt
  | .ell2 _ _ => .ct
  | .mtoe _ _ _ => .ct

end Sys2Proof.Machine
end

