-- ==== Sys2Proof/Safety.lean ====
section
/-! DEFINITION. What holds of a safe run, in the terms the statements use: the value in GF(p) of a field register, the
value-level pseudocode of 43_point.md and 44_scalarmul_msm.md, the validity of points (43_point.md R261), the tags a
command accepts (60_exceptions.md R405), and the invariants of the state (10_state.md R32, R34, R36, R40, R41, R50). -/
namespace Sys2Proof.Machine

/-! ### Values of field registers -/

/-- GF(p) (00_scope.md R8). -/
abbrev GF := ZMod p

/-- The value in GF(p) of a limb vector (10_state.md R31). -/
def Fe.gf (x : Fe) : GF := (x.fval : GF)

/-- Every limb is below 2^n (10_state.md R32, 41_field.md R166). -/
abbrev Fe.Below (n : Nat) (x : Fe) : Prop :=
  x.l0.toNat < 2 ^ n ∧ x.l1.toNat < 2 ^ n ∧ x.l2.toNat < 2 ^ n ∧ x.l3.toNat < 2 ^ n ∧ x.l4.toNat < 2 ^ n

/-- `inv` of 41_field.md R181: the power `p − 2`. -/
def gfInv (x : GF) : GF := x ^ (p - 2)

/-- The constant `d` of the curve equation, EDWARDS_D (41_field.md R160). -/
def gfD : GF := feEdwardsD.gf

/-- A canonical limb vector of the same value (41_field.md R185). -/
def Fe.canon (x : Fe) : Fe := Fe.ofValue x.fval

/-! ### Points at value level -/

/-- The components of an `EXT` point in GF(p). -/
@[ext] structure GExt where
  X : GF
  Y : GF
  Z : GF
  T : GF

/-- The components of a `PROJ` point in GF(p). -/
@[ext] structure GProj where
  X : GF
  Y : GF
  Z : GF

/-- The components of a `COMPL` point in GF(p). -/
@[ext] structure GCompl where
  X : GF
  Y : GF
  Z : GF
  T : GF

/-- The components of a `PNIELS` point in GF(p). -/
@[ext] structure GPNiels where
  YpX : GF
  YmX : GF
  Z : GF
  T2d : GF

/-- The components of an `ANIELS` point in GF(p). -/
@[ext] structure GANiels where
  ypx : GF
  ymx : GF
  xy2d : GF

/-- The components in GF(p) of an `EXT` content (10_state.md R37). -/
def Ext.gf (e : Ext) : GExt := ⟨e.X.gf, e.Y.gf, e.Z.gf, e.T.gf⟩
/-- The components in GF(p) of a `PROJ` content (10_state.md R37). -/
def Proj.gf (e : Proj) : GProj := ⟨e.X.gf, e.Y.gf, e.Z.gf⟩
/-- The components in GF(p) of a `COMPL` content (10_state.md R37). -/
def Compl.gf (e : Compl) : GCompl := ⟨e.X.gf, e.Y.gf, e.Z.gf, e.T.gf⟩
/-- The components in GF(p) of a `PNIELS` content (10_state.md R37). -/
def PNiels.gf (n : PNiels) : GPNiels := ⟨n.YpX.gf, n.YmX.gf, n.Z.gf, n.T2d.gf⟩
/-- The components in GF(p) of an `ANIELS` content (10_state.md R37). -/
def ANiels.gf (n : ANiels) : GANiels := ⟨n.ypx.gf, n.ymx.gf, n.xy2d.gf⟩

/-- Every limb of an `EXT` content is below 2^n (10_state.md R32). -/
abbrev Ext.Below (n : Nat) (e : Ext) : Prop := e.X.Below n ∧ e.Y.Below n ∧ e.Z.Below n ∧ e.T.Below n
/-- Every limb of a `PROJ` content is below 2^n (10_state.md R32). -/
abbrev Proj.Below (n : Nat) (e : Proj) : Prop := e.X.Below n ∧ e.Y.Below n ∧ e.Z.Below n
/-- Every limb of a `COMPL` content is below 2^n (10_state.md R32). -/
abbrev Compl.Below (n : Nat) (e : Compl) : Prop := e.X.Below n ∧ e.Y.Below n ∧ e.Z.Below n ∧ e.T.Below n
/-- Every limb of a `PNIELS` content is below 2^n (10_state.md R32). -/
abbrev PNiels.Below (n : Nat) (e : PNiels) : Prop := e.YpX.Below n ∧ e.YmX.Below n ∧ e.Z.Below n ∧ e.T2d.Below n
/-- Every limb of an `ANIELS` content is below 2^n (10_state.md R32). -/
abbrev ANiels.Below (n : Nat) (e : ANiels) : Prop := e.ypx.Below n ∧ e.ymx.Below n ∧ e.xy2d.Below n

/-- Every limb of every component is below 2^n (10_state.md R32). -/
def Point.Below (n : Nat) : Point → Prop
  | .ext e => e.Below n
  | .proj e => e.Below n
  | .compl e => e.Below n
  | .pniels e => e.Below n
  | .aniels e => e.Below n

/-! The pseudocode of 43_point.md over GF(p), one function per rule. -/

/-- 43_point.md R275. -/
def GExt.toProj (e : GExt) : GProj := ⟨e.X, e.Y, e.Z⟩
/-- 43_point.md R276; `d2 = 2 d`. -/
def GExt.toPN (e : GExt) : GPNiels := ⟨e.Y + e.X, e.Y - e.X, e.Z, e.T * (2 * gfD)⟩
/-- The affine point `(X/Z, Y/Z)` (43_point.md R261). -/
def GExt.aff (e : GExt) : GF × GF := (e.X * gfInv e.Z, e.Y * gfInv e.Z)
/-- 43_point.md R277. -/
def GExt.toAN (e : GExt) : GANiels :=
  ⟨e.aff.2 + e.aff.1, e.aff.2 - e.aff.1, e.aff.1 * e.aff.2 * (2 * gfD)⟩
/-- 43_point.md R278. -/
def GProj.toExt (e : GProj) : GExt := ⟨e.X * e.Z, e.Y * e.Z, e.Z ^ 2, e.X * e.Y⟩
/-- 43_point.md R279. -/
def GCompl.toProj (e : GCompl) : GProj := ⟨e.X * e.T, e.Y * e.Z, e.Z * e.T⟩
/-- 43_point.md R280. -/
def GCompl.toExt (e : GCompl) : GExt := ⟨e.X * e.T, e.Y * e.Z, e.Z * e.T, e.X * e.Y⟩
/-- 43_point.md R281. -/
def GProj.dbl (e : GProj) : GCompl :=
  let YpX := e.Y ^ 2 + e.X ^ 2
  let YmX := e.Y ^ 2 - e.X ^ 2
  ⟨(e.X + e.Y) ^ 2 - YpX, YpX, YmX, 2 * e.Z ^ 2 - YmX⟩
/-- 43_point.md R282, with a `PNIELS` operand. -/
def GExt.addPN (e : GExt) (n : GPNiels) : GCompl :=
  let PP := (e.Y + e.X) * n.YpX
  let MM := (e.Y - e.X) * n.YmX
  let TT := e.T * n.T2d
  let ZZ2 := e.Z * n.Z + e.Z * n.Z
  ⟨PP - MM, PP + MM, ZZ2 + TT, ZZ2 - TT⟩
/-- 43_point.md R282, with an `ANIELS` operand. -/
def GExt.addAN (e : GExt) (n : GANiels) : GCompl :=
  let PP := (e.Y + e.X) * n.ypx
  let MM := (e.Y - e.X) * n.ymx
  let TT := e.T * n.xy2d
  let ZZ2 := e.Z + e.Z
  ⟨PP - MM, PP + MM, ZZ2 + TT, ZZ2 - TT⟩
/-- 43_point.md R283, with a `PNIELS` operand. -/
def GExt.subPN (e : GExt) (n : GPNiels) : GCompl :=
  let PM := (e.Y + e.X) * n.YmX
  let MP := (e.Y - e.X) * n.YpX
  let TT := e.T * n.T2d
  let ZZ2 := e.Z * n.Z + e.Z * n.Z
  ⟨PM - MP, PM + MP, ZZ2 - TT, ZZ2 + TT⟩
/-- 43_point.md R283, with an `ANIELS` operand. -/
def GExt.subAN (e : GExt) (n : GANiels) : GCompl :=
  let PM := (e.Y + e.X) * n.ymx
  let MP := (e.Y - e.X) * n.ypx
  let TT := e.T * n.xy2d
  let ZZ2 := e.Z + e.Z
  ⟨PM - MP, PM + MP, ZZ2 - TT, ZZ2 + TT⟩
/-- 43_point.md R284, `EXT`. -/
def GExt.neg (e : GExt) : GExt := ⟨-e.X, e.Y, e.Z, -e.T⟩
/-- 43_point.md R284, `PNIELS`. -/
def GPNiels.neg (n : GPNiels) : GPNiels := ⟨n.YmX, n.YpX, n.Z, -n.T2d⟩
/-- 43_point.md R284, `ANIELS`. -/
def GANiels.neg (n : GANiels) : GANiels := ⟨n.ymx, n.ypx, -n.xy2d⟩
/-- 43_point.md R292. -/
def GExt.add (a b : GExt) : GExt := (a.addPN b.toPN).toExt
/-- 43_point.md R293. -/
def GExt.sub (a b : GExt) : GExt := (a.subPN b.toPN).toExt
/-- 43_point.md R294. -/
def GExt.dbl (a : GExt) : GExt := a.toProj.dbl.toExt
/-- 43_point.md R291. -/
def GExt.mulcof (a : GExt) : GExt := a.toProj.dbl.toProj.dbl.toProj.dbl.toExt

/-! The multipliers of 44_scalarmul_msm.md over GF(p), tables indexed directly. -/

/-- The identity as `EXT` (43_point.md R262). -/
def gIdentity : GExt := ⟨0, 1, 1, 0⟩

/-- `n` table entries from `t` on, each `q` plus the one before (44_scalarmul_msm.md R321, R326). -/
def gTable (q : GExt) (t : GPNiels) : Nat → List GPNiels
  | 0 => []
  | n + 1 => t :: gTable q (q.addPN t).toExt.toPN n

/-- The entry a digit of a radix-16 form selects from the consecutive multiples (44_scalarmul_msm.md R322). -/
def gLookup (t : List GPNiels) (x : Int) : GPNiels :=
  if 0 < x then t.getD (x - 1).toNat gIdentity.toPN
  else if x < 0 then (t.getD (-x - 1).toNat gIdentity.toPN).neg
  else gIdentity.toPN

/-- One position of PT_SMUL after the first: four doublings and an addition (44_scalarmul_msm.md R325). -/
def gSmulStep (t : List GPNiels) (acc : GCompl) (x : Int) : GCompl :=
  acc.toProj.dbl.toProj.dbl.toProj.dbl.toProj.dbl.toExt.addPN (gLookup t x)

/-- `[n]P` by the 64 radix-16 digits, high to low (44_scalarmul_msm.md R325). -/
def GExt.smul (q : GExt) (n : Nat) : GExt :=
  let t := gTable q q.toPN 8
  match (scRadix16 n).reverse with
  | [] => gIdentity
  | x :: xs => (xs.foldl (gSmulStep t) (gIdentity.addPN (gLookup t x))).toExt

/-- A NAF digit applied with a table of `PNIELS` odd multiples (44_scalarmul_msm.md R328). -/
def gApplyPN (t : List GPNiels) (acc : GCompl) (x : Int) : GCompl :=
  if 0 < x then acc.toExt.addPN (t.getD ((x - 1) / 2).toNat gIdentity.toPN)
  else if x < 0 then acc.toExt.subPN (t.getD ((-x - 1) / 2).toNat gIdentity.toPN)
  else acc

/-- A NAF digit applied with a table of `ANIELS` odd multiples (44_scalarmul_msm.md R328). -/
def gApplyAN (t : List GANiels) (acc : GCompl) (x : Int) : GCompl :=
  if 0 < x then acc.toExt.addAN (t.getD ((x - 1) / 2).toNat ⟨1, 1, 0⟩)
  else if x < 0 then acc.toExt.subAN (t.getD ((-x - 1) / 2).toNat ⟨1, 1, 0⟩)
  else acc

/-- The odd multiples `1P .. 15P` (44_scalarmul_msm.md R326). -/
def GExt.nafTable (q : GExt) : List GPNiels := gTable q.dbl q.toPN 8

/-- One position of the multiscalar scan: a doubling, then the digits of all pairs in push order
(44_scalarmul_msm.md R333). -/
def gMsmStep (prs : List (List Int × List GPNiels)) (r : GProj) (i : Nat) : GProj :=
  (prs.foldl (fun acc pr => gApplyPN pr.2 acc (pr.1.getD i 0)) r.dbl).toProj

/-- `sum of [s_k] Q_k`, positions 255 down to 0 (44_scalarmul_msm.md R333). -/
def gMsm (prs : List (Nat × GExt)) : GExt :=
  ((List.range 256).reverse.foldl (gMsmStep (prs.map fun q => (scNaf q.1 5, q.2.nafTable))) ⟨0, 1, 1⟩).toExt

/-- One position of PT_DSMB: a doubling, the digit of `A`, the digit of `B` (44_scalarmul_msm.md R329). -/
def gDsmbStep (an bn : List Int) (tA : List GPNiels) (r : GProj) (i : Nat) : GProj :=
  (gApplyAN (baseTable.map ANiels.gf) (gApplyPN tA r.dbl (an.getD i 0)) (bn.getD i 0)).toProj

/-- The position PT_DSMB starts at: the largest with a nonzero digit, 0 if there is none (44_scalarmul_msm.md
R329). -/
def gTop (an bn : List Int) : Nat :=
  (((List.range 256).filter fun i => an.getD i 0 ≠ 0 ∨ bn.getD i 0 ≠ 0).getLast?).getD 0

/-- `[a]A + [b]B` (44_scalarmul_msm.md R329). -/
def GExt.dsmb (a : Nat) (q : GExt) (b : Nat) : GExt :=
  let an := scNaf a 5
  let bn := scNaf b 8
  ((List.range (gTop an bn + 1)).reverse.foldl (gDsmbStep an bn q.nafTable) ⟨0, 1, 1⟩).toExt

/-! ### The curve and its points -/

/-- The curve equation (43_point.md R260). -/
def OnCurve (x y : GF) : Prop := -x ^ 2 + y ^ 2 = 1 + gfD * x ^ 2 * y ^ 2

/-- The affine group law (43_point.md R260). -/
def affAdd (a b : GF × GF) : GF × GF :=
  let k := gfD * a.1 * b.1 * a.2 * b.2
  ((a.1 * b.2 + b.1 * a.2) * gfInv (1 + k), (a.2 * b.2 + a.1 * b.1) * gfInv (1 - k))

/-- `[n]` of an affine point, by repeated addition (43_point.md R260). -/
def affMul (a : GF × GF) : Nat → GF × GF
  | 0 => (0, 1)
  | n + 1 => affAdd (affMul a n) a

/-- Validity of an `EXT` point, the curve equation in homogenized form (10_state.md R37, 43_point.md R261). -/
structure GExt.Valid (e : GExt) : Prop where
  nonzero : e.Z ≠ 0
  product : e.X * e.Y = e.Z * e.T
  curve : (e.Y ^ 2 - e.X ^ 2) * e.Z ^ 2 = e.Z ^ 4 + gfD * e.X ^ 2 * e.Y ^ 2

/-- Validity of a `PROJ` point (43_point.md R261). -/
structure GProj.Valid (e : GProj) : Prop where
  nonzero : e.Z ≠ 0
  curve : (e.Y ^ 2 - e.X ^ 2) * e.Z ^ 2 = e.Z ^ 4 + gfD * e.X ^ 2 * e.Y ^ 2

/-- Validity of a `COMPL` point, which stands for `(X/Z, Y/T)` (43_point.md R261). -/
structure GCompl.Valid (e : GCompl) : Prop where
  nonzeroZ : e.Z ≠ 0
  nonzeroT : e.T ≠ 0
  curve : e.Y ^ 2 * e.Z ^ 2 - e.X ^ 2 * e.T ^ 2 = e.Z ^ 2 * e.T ^ 2 + gfD * e.X ^ 2 * e.Y ^ 2

/-- Validity of a point register's content, by its tag (43_point.md R261). -/
def Point.Valid : Point → Prop
  | .ext e => e.gf.Valid
  | .proj e => e.gf.Valid
  | .compl e => e.gf.Valid
  | .pniels n => ∃ e : GExt, e.Valid ∧ n.gf = e.toPN
  | .aniels n => ∃ x y : GF, OnCurve x y ∧ n.gf = ⟨y + x, y - x, x * y * (2 * gfD)⟩

/-- Every point register and every pair of the list holds a representation of a point of the curve (43_point.md
R265). -/
def State.PointsValid (s : State) : Prop :=
  (∀ q, some q ∈ s.P → Point.Valid q) ∧ ∀ m ∈ s.msm, m.point.gf.Valid

/-! ### Tags -/

/-- The representation of a point register's content (10_state.md R36). -/
inductive Tag where
  | ext
  | proj
  | compl
  | pniels
  | aniels
deriving DecidableEq, Repr

/-- The tag of a content. -/
def Point.tag : Point → Tag
  | .ext _ => .ext
  | .proj _ => .proj
  | .compl _ => .compl
  | .pniels _ => .pniels
  | .aniels _ => .aniels

/-- `P[n]` is not EMPTY and has one of the tags. -/
def State.hasTag (s : State) (n : RegNo) (ts : List Tag) : Bool :=
  match s.readP n with
  | some q => ts.contains q.tag
  | none => false

/-- `P[n]` and `P[m]` have one tag, one of `EXT`, `PNIELS`, `ANIELS` (60_exceptions.md R405). -/
def State.sameTag (s : State) (n m : RegNo) : Bool :=
  [Tag.ext, .pniels, .aniels].any fun t => s.hasTag n [t] && s.hasTag m [t]

/-- Whether a command accepts the tags of its point sources, by the table of 60_exceptions.md R405. -/
def tagsAccepted (s : State) : Instr → Bool
  | .nop => true
  | .chSet _ _ => true
  | .chNot _ _ => true
  | .chAnd _ _ _ => true
  | .chOr _ _ _ => true
  | .chXor _ _ _ => true
  | .feLd _ _ => true
  | .feSt _ _ => true
  | .feConst _ _ => true
  | .feMov _ _ => true
  | .feAdd _ _ _ => true
  | .feSub _ _ _ => true
  | .feNeg _ _ => true
  | .feMul _ _ _ => true
  | .feSq _ _ => true
  | .feSq2 _ _ => true
  | .fePow2k _ _ _ => true
  | .feInv _ _ => true
  | .fePowp58 _ _ => true
  | .fePow22501 _ _ _ => true
  | .feSqrtri _ _ _ _ => true
  | .feRed _ _ => true
  | .feCsel _ _ _ _ => true
  | .feCneg _ _ => true
  | .feCassign _ _ _ => true
  | .feEq _ _ _ => true
  | .feIsneg _ _ => true
  | .feIszero _ _ => true
  | .scLd _ _ => true
  | .scLdw _ _ => true
  | .scSt _ _ => true
  | .scMov _ _ => true
  | .scAdd _ _ _ => true
  | .scSub _ _ _ => true
  | .scMul _ _ _ => true
  | .scNeg _ _ => true
  | .scRed _ _ => true
  | .scIscanon _ _ => true
  | .scMmul _ _ _ => true
  | .scTomont _ _ => true
  | .scFrommont _ _ => true
  | .scRadix16 _ _ => true
  | .scRadix2w _ _ _ => true
  | .scNaf _ _ _ => true
  | .dgSt _ _ => true
  | .ptIdent _ => true
  | .ptBase _ => true
  | .ptMov _ _ => true
  | .ptDecomp _ _ _ => true
  | .ptComp a _ => s.hasTag a [.ext]
  | .ptE2p _ a => s.hasTag a [.ext]
  | .ptE2pn _ a => s.hasTag a [.ext]
  | .ptE2an _ a => s.hasTag a [.ext]
  | .ptP2e _ a => s.hasTag a [.proj]
  | .ptC2p _ a => s.hasTag a [.compl]
  | .ptC2e _ a => s.hasTag a [.compl]
  | .ptDbl _ a => s.hasTag a [.proj]
  | .ptAdd _ a b => s.hasTag a [.ext] && s.hasTag b [.pniels, .aniels]
  | .ptSub _ a b => s.hasTag a [.ext] && s.hasTag b [.pniels, .aniels]
  | .ptNeg _ a => s.hasTag a [.ext, .pniels, .aniels]
  | .ptCsel _ a b _ => s.sameTag a b
  | .ptCneg d _ => s.hasTag d [.ext, .pniels, .aniels]
  | .ptCassign d a _ => s.sameTag a d
  | .ptEq _ a b => s.hasTag a [.ext] && s.hasTag b [.ext]
  | .ptIssmall _ a => s.hasTag a [.ext]
  | .ptIsident _ a => s.hasTag a [.ext]
  | .ptMulcof _ a => s.hasTag a [.ext]
  | .ptEadd _ a b => s.hasTag a [.ext] && s.hasTag b [.ext]
  | .ptEsub _ a b => s.hasTag a [.ext] && s.hasTag b [.ext]
  | .ptEdbl _ a => s.hasTag a [.ext]
  | .ptSmul _ a _ => s.hasTag a [.ext]
  | .ptDsmb _ _ b _ => s.hasTag b [.ext]
  | .msmClr => true
  | .msmPush _ b => s.hasTag b [.ext]
  | .msmRun _ => true
  | .ell2 _ _ => true
  | .mtoe _ _ _ => true

/-- The tag codes and EMPTY states of all registers, and how long the pair list is: what the fault of a command may
depend on, MTOE's apart (70_reset_and_hazards.md R445). -/
def State.shape (s : State) : Params × List Bool × List Bool × List (BitVec 3) × List Bool × List Bool × Nat :=
  (s.params, s.F.map Option.isSome, s.S.map Option.isSome, s.P.map tagCode, s.C.map Option.isSome,
    s.DG.map Option.isSome, s.msm.length)

/-! ### Invariants -/

/-- Every field component of every register and of the pair list has limbs below 2^n (10_state.md R32). -/
def State.LimbsBelow (n : Nat) (s : State) : Prop :=
  (∀ x, some x ∈ s.F → Fe.Below n x) ∧ (∀ q, some q ∈ s.P → Point.Below n q) ∧ ∀ m ∈ s.msm, m.point.Below n

/-- The content of a digit buffer is one 10_state.md R40 allows. -/
abbrev Digits.Legal (g : Digits) : Prop :=
  g.len ∈ [33, 37, 43, 52, 64, 256] ∧ g.dig.length = 256 ∧ ∀ b ∈ g.dig.drop g.len, b = 0

/-- The fault record says either that nothing has faulted or a code of 60_exceptions.md R401 and the index at which
the block stopped (10_state.md R50). -/
abbrev State.RecordLegal (s : State) : Prop :=
  if s.fault then 1 ≤ s.faultcode.toNat ∧ s.faultcode.toNat ≤ 8 ∧ s.faultidx = s.cmdidx
  else s.faultcode = 0 ∧ s.faultcmd = 0 ∧ s.faultidx = 0

/-- The invariant of the state: the bounds, shapes and records of 10_state.md section 1 to 9. -/
structure State.Inv (s : State) : Prop where
  /-- The parameters are in their ranges (00_scope.md R6). -/
  params : s.params.Legal
  /-- The files have as many registers as the parameters say (R31, R34, R36, R39, R40). -/
  files : s.F.length = s.params.nf ∧ s.S.length = s.params.ns ∧ s.P.length = s.params.np ∧
    s.C.length = s.params.nc ∧ s.DG.length = s.params.ndg
  /-- Limbs are below 2^53, the bound of every register write (41_field.md R166), hence below the 2^54 of R32. -/
  limbs : s.LimbsBelow 53
  /-- Bit 255 of every scalar content is 0 (R34, R41). -/
  scalars : (∀ x, some x ∈ s.S → x.toNat < 2 ^ 255) ∧ ∀ m ∈ s.msm, m.scalar.toNat < 2 ^ 255
  /-- Digit buffers hold what R40 allows. -/
  digits : ∀ g, some g ∈ s.DG → Digits.Legal g
  /-- The pair list is not longer than its capacity (R41). -/
  pairs : s.msm.length ≤ s.params.msmCap
  /-- The memory is in its canonical form. -/
  memory : Memory.wf s.oram = true
  /-- Every byte lies in ORAM (R42). -/
  addresses : ∀ c ∈ s.oram, c.1 < 32 * s.params.nslot
  /-- The fault record is legal (R50). -/
  record : s.RecordLegal
  /-- While the reset input is asserted the block holds its reset state (70_reset_and_hazards.md R431). -/
  held : s.resetIn = true → s = { s.resetBlock with resetIn := true }

/-! ### What the host can tell apart -/

/-- A point content with canonical limbs. -/
def Point.canon : Point → Point
  | .ext e => .ext ⟨e.X.canon, e.Y.canon, e.Z.canon, e.T.canon⟩
  | .proj e => .proj ⟨e.X.canon, e.Y.canon, e.Z.canon⟩
  | .compl e => .compl ⟨e.X.canon, e.Y.canon, e.Z.canon, e.T.canon⟩
  | .pniels n => .pniels ⟨n.YpX.canon, n.YmX.canon, n.Z.canon, n.T2d.canon⟩
  | .aniels n => .aniels ⟨n.ypx.canon, n.ymx.canon, n.xy2d.canon⟩

/-- A pair with canonical limbs. -/
def MsmPair.canon (m : MsmPair) : MsmPair :=
  ⟨m.scalar, ⟨m.point.X.canon, m.point.Y.canon, m.point.Z.canon, m.point.T.canon⟩⟩

/-- The state with every limb vector canonical: two states are equal after it exactly when they differ in limb
vectors of equal value only (10_state.md R33). -/
def State.canon (s : State) : State :=
  { s with F := s.F.map (Option.map Fe.canon), P := s.P.map (Option.map Point.canon), msm := s.msm.map MsmPair.canon }

/-- An outcome with canonical limbs. -/
def canonResult : Result → Result
  | .next s => .next s.canon
  | .fault f => .fault f
  | .refused r => .refused r

/-- The state after `n` steps; none where one of them stops. -/
def runSteps : Nat → State → Option State
  | 0, s => some s
  | n + 1, s =>
    match step s with
    | .next t => runSteps n t
    | .fault _ => none
    | .refused _ => none

end Sys2Proof.Machine
end

