-- ==== Sys2Proof/Certificates/Slice0/Obligations.lean ====
section
/-! DEFINITION. The statements for the provers. Where a statement says what a command does, its conclusion is that
`exec` answers the next state it names, so it is also the statement that the command completes there. A register's
content is compared through its value in GF(p) or as an integer; a limb vector is named where a rule fixes it. -/

section
open Sys2Proof Sys2Proof.Machine

/-! ### Encoding and decoding -/

/-- Every well-formed command of every instance decodes from its word, with every operand (30_encoding.md R100, R103,
R107). -/
def Obligations.DecodeOfEncode : Prop :=
  ∀ (prm : Params) (i : Instr), i.WellFormed prm → decode prm (encode i) = .ok i

/-- A word that decodes is the word of the command it decodes to, which is well formed: no two words are one command,
and no bit is ignored (30_encoding.md R103, R105). -/
def Obligations.EncodeOfDecode : Prop :=
  ∀ (prm : Params) (w : Word) (i : Instr), decode prm w = .ok i → encode i = w ∧ i.WellFormed prm

/-- The opcodes of 30_encoding.md R108 are illegal, they and no others; every word is a command or faults in decoding;
only the word of NOP is a no-operation. -/
def Obligations.IllegalOpcodes : Prop :=
  ∀ (prm : Params) (w : Word),
    (decode prm w = .error .illegalOpcode ↔
      (let n := w.toNat / 2 ^ 24
       n = 0 ∨ (2 ≤ n ∧ n ≤ 7) ∨ (0x0D ≤ n ∧ n ≤ 0x0F) ∨ (0x26 ≤ n ∧ n ≤ 0x2F) ∨ (0x3D ≤ n ∧ n ≤ 0x3F) ∨
       (0x44 ≤ n ∧ n ≤ 0x4F) ∨ (0x69 ≤ n ∧ n ≤ 0x6F) ∨ (0x75 ≤ n ∧ n ≤ 0x77) ∨ 0x7A ≤ n)) ∧
    (w = 0x00000000 ∨ w = 0xFFFFFFFF → decode prm w = .error .illegalOpcode) ∧
    (decode prm w = .ok .nop ↔ w = 0x01000000) ∧
    ((∃ i, decode prm w = .ok i) ∨ decode prm w = .error .illegalOpcode ∨ decode prm w = .error .illegalField ∨
      decode prm w = .error .slotRange)

/-- Six words written out from the spec's encodings decode to the commands they stand for, one of each group of
opcodes. -/
def Obligations.DecodedWords : Prop :=
  decode Params.default 0x080C0001 = .ok (.chSet 3 1) ∧
  decode Params.default 0x1E080040 = .ok (.feSqrtri 2 0 1 0) ∧
  decode Params.default 0x41040008 = .ok (.scRadix2w 1 0 8) ∧
  decode Params.default 0x53040003 = .ok (.ptDecomp 1 0 3) ∧
  decode Params.default 0x71080041 = .ok (.ptDsmb 2 0 1 1) ∧
  decode Params.default 0x79001001 = .ok (.mtoe 0 1 1)

/-- The checks of decoding in the order of 30_encoding.md R103: fields before slots, a command passes them exactly when
it is well formed. That `exec` takes the same faults on a command no word decodes to is the model's choice (log entry
8). -/
def Obligations.DecodeChecks : Prop :=
  (∀ (prm : Params) (w : Word) (r : Row), rowOf (fieldOp w) = some r →
    (decode prm w = .error .illegalField ↔
      w &&& r.mask ≠ r.matchWord ∨ ∃ o ∈ (r.build w).operands, o.fieldLegal prm = false) ∧
    (decode prm w = .error .slotRange ↔
      w &&& r.mask = r.matchWord ∧ (∀ o ∈ (r.build w).operands, o.fieldLegal prm = true) ∧
        ∃ o ∈ (r.build w).operands, o.slotLegal prm = false)) ∧
  (∀ (prm : Params) (i : Instr), i.check prm = none ↔ i.WellFormed prm) ∧
  ∀ (s : State) (i : Instr) (k : FaultCode), i.check s.params = some k →
    exec i s = .next (s.takeFault k (encode i))

/-! ### Commands, faults, frames -/

/-- A step whose bus event is a write to CMD of a word that decodes runs the decoded command, the event taken
(10_state.md R48, 20_memory.md R81). -/
def Obligations.StepRunsDecodedCommand : Prop :=
  ∀ (s : State) (w : Word) (es : List BusEvent) (i : Instr),
    s.bus = .write cmdOffset w :: es → s.resetIn = false → s.fault = false → decode s.params w = .ok i →
      step s = exec i { s with bus := es }

/-- A write to CMD (10_state.md R48): ignored with a fault recorded; else it retires its command, counted in `cmdidx`,
or it faults and writes the record alone. It always completes. -/
def Obligations.CmdWrite : Prop :=
  ∀ (s u : State) (w : Word) (es : List BusEvent),
    s.bus = .write cmdOffset w :: es → s.resetIn = false → u = { s with bus := es } →
      (s.fault = true → step s = .next u) ∧
      (s.fault = false → ∃ t, step s = .next t ∧
        ((∃ i, decode s.params w = .ok i ∧ exec i u = .next t ∧ t.fault = false ∧ t.cmdidx = s.cmdidx + 1) ∨
          ∃ k, t = u.takeFault k w))

/-- Fault entry (60_exceptions.md R410): the four fields of the record are written and nothing else changes. -/
def Obligations.FaultEntry : Prop :=
  ∀ (s t : State) (w : Word) (es : List BusEvent),
    s.bus = .write cmdOffset w :: es → s.resetIn = false → s.fault = false → step s = .next t → t.fault = true →
      ∃ k : BitVec 8, 1 ≤ k.toNat ∧ k.toNat ≤ 8 ∧
        t = { s with bus := es, fault := true, faultcode := k, faultcmd := w, faultidx := s.cmdidx }

/-- After a fault, until reset (60_exceptions.md R411): CMD writes are ignored, reads and ORAM writes work, a soft
reset resets; and whatever step is taken, either the record and the registers stay as they are or it is a reset. -/
def Obligations.FaultIsSticky : Prop :=
  ∀ (s : State), s.fault = true →
    (∀ e es, s.bus = e :: es → s.resetIn = false →
      (∀ w, e = .write cmdOffset w → step s = .next { s with bus := es }) ∧
      (∀ o, e = .read o → o % 4 = 0 → o < windowEnd s.params →
        step s = .next { s with bus := es, readLog := s.readLog ++ [hostRead s o] }) ∧
      (∀ j w, e = .write (0x800 + 4 * j) w → j < 8 * s.params.nslot →
        step s = .next { s with bus := es, oram := memWrite s.oram (4 * j) (leBytes 4 w.toNat) }) ∧
      (∀ w, e = .write 0x030 w → w.getLsbD 0 = true → step s = .next { s with bus := es }.resetBlock)) ∧
    ∀ t, step s = .next t →
      (t.fault = true ∧ t.faultcode = s.faultcode ∧ t.faultcmd = s.faultcmd ∧ t.faultidx = s.faultidx ∧
        t.cmdidx = s.cmdidx ∧ t.F = s.F ∧ t.S = s.S ∧ t.P = s.P ∧ t.C = s.C ∧ t.DG = s.DG ∧ t.msm = s.msm) ∨
      (∃ w es, s.bus = .write 0x030 w :: es ∧ w.getLsbD 0 = true ∧ t = { s with bus := es }.resetBlock) ∨
      ∃ es, s.bus = .resetInput true :: es ∧ t = { { s with bus := es }.resetBlock with resetIn := true }

/-- UNWRITTEN is raised exactly when a source register of a well-formed command is EMPTY (60_exceptions.md R404,
40_system_choice.md R130). -/
def Obligations.UnwrittenIffEmptySource : Prop :=
  ∀ (i : Instr) (s : State), i.WellFormed s.params →
    (exec i s = .next (s.takeFault .unwritten (encode i)) ↔ ∃ r ∈ sources i, s.isEmpty r = true)

/-- TYPE is raised exactly when, no source being EMPTY, a tag is not one the command accepts (60_exceptions.md R405;
UNWRITTEN comes first, R408). -/
def Obligations.TypeIffTagRefused : Prop :=
  ∀ (i : Instr) (s : State), i.WellFormed s.params → (∀ r ∈ sources i, s.isEmpty r = false) →
    (exec i s = .next (s.takeFault .wrongType (encode i)) ↔ tagsAccepted s i = false)

/-- MSM_FULL and MSM_EMPTY (60_exceptions.md R406, R407): on a full list MSM_PUSH faults, after its UNWRITTEN and TYPE
checks; on an empty list MSM_RUN faults; the record alone is written. -/
def Obligations.ListFaults : Prop :=
  (∀ (s : State) (a b : RegNo), (Instr.msmPush a b).WellFormed s.params → s.msm.length = s.params.msmCap →
    (s.readS a = none ∨ s.readP b = none →
      exec (.msmPush a b) s = .next (s.takeFault .unwritten (encode (.msmPush a b)))) ∧
    (∀ n q, s.readS a = some n → s.readP b = some q → q.tag ≠ .ext →
      exec (.msmPush a b) s = .next (s.takeFault .wrongType (encode (.msmPush a b)))) ∧
    (∀ n q, s.readS a = some n → s.readP b = some q → q.tag = .ext →
      exec (.msmPush a b) s = .next (s.takeFault .msmFull (encode (.msmPush a b))))) ∧
  ∀ (s : State) (d : RegNo), (Instr.msmRun d).WellFormed s.params → s.msm.length = 0 →
    exec (.msmRun d) s = .next (s.takeFault .msmEmpty (encode (.msmRun d)))

/-- Whether and with which code a command faults depends on EMPTY states, tags, the length of the pair list and the
parameters alone, for every command but MTOE (70_reset_and_hazards.md R445, 60_exceptions.md R402, R408). -/
def Obligations.FaultsIgnoreData : Prop :=
  ∀ (i : Instr) (s s' : State) (k : FaultCode), (∀ d a imm, i ≠ .mtoe d a imm) → s.shape = s'.shape →
    (exec i s = .next (s.takeFault k (encode i)) ↔ exec i s' = .next (s'.takeFault k (encode i)))

/-- Limb vectors are not observable (10_state.md R33): two states that differ only in limb vectors of equal value take
the same step, again up to limb vectors of equal value, and every register the host can read is the same. -/
def Obligations.LimbsAreUnobservable : Prop :=
  ∀ (s s' : State), s.LimbsBelow 54 → s'.LimbsBelow 54 → s.canon = s'.canon →
    canonResult (step s) = canonResult (step s') ∧ ∀ offset, hostRead s offset = hostRead s' offset

/-- The frame of every command: registers other than its destinations, the pair list of a command that is not MSM_CLR,
MSM_PUSH or MSM_RUN, bytes of ORAM outside those it stores to (at the address its meaning computes from the slot), the
parameters and the host's side are unchanged; and either the record is unchanged and `cmdidx` counts the command, or
it faults and the record alone changes (10_state.md R44, R50, R57). -/
def Obligations.FrameOfCommands : Prop :=
  ∀ (i : Instr) (s t : State), exec i s = .next t →
    (∀ n, .f n ∉ dests i → t.readF n = s.readF n) ∧ (∀ n, .s n ∉ dests i → t.readS n = s.readS n) ∧
    (∀ n, .p n ∉ dests i → t.readP n = s.readP n) ∧ (∀ n, .c n ∉ dests i → t.readC n = s.readC n) ∧
    (∀ n, .dg n ∉ dests i → t.readDG n = s.readDG n) ∧
    (touchesMsm i = false → t.msm = s.msm) ∧
    ((∀ a imm g, i = .dgSt a imm → s.readDG a = some g → g.Legal) →
      ∀ x, (∀ a n, storeSpan i = some (a, n) → x < a ∨ a + n ≤ x) → readByte t.oram x = readByte s.oram x) ∧
    t.params = s.params ∧ t.resetIn = s.resetIn ∧ t.bus = s.bus ∧ t.readLog = s.readLog ∧
    ((t.cmdidx = s.cmdidx + 1 ∧ t.fault = s.fault ∧ t.faultcode = s.faultcode ∧ t.faultcmd = s.faultcmd ∧
        t.faultidx = s.faultidx) ∨
      ∃ k, t = s.takeFault k (encode i))

/-- The command counter (10_state.md R44): 0 after reset; one more for a command that completes; unchanged by a command
that faults, by an ignored one and by every other event but a reset; it wraps; CMDIDX reads it; no command reads it. -/
def Obligations.CommandCounter : Prop :=
  State.reset.cmdidx = 0 ∧ (∀ s : State, s.resetBlock.cmdidx = 0) ∧ (∀ s, hostRead s 0x024 = s.cmdidx) ∧
  (∀ s t, step s = .next t →
    t.cmdidx = s.cmdidx ∨
    (t.cmdidx = s.cmdidx + 1 ∧ s.fault = false ∧ t.fault = false ∧ ∃ w es, s.bus = .write cmdOffset w :: es) ∨
    (∃ w es, s.bus = .write ctrlOffset w :: es ∧ w.getLsbD 0 = true) ∨ ∃ es, s.bus = .resetInput true :: es) ∧
  (∀ i s t, exec i s = .next t →
    ((∃ k, t = s.takeFault k (encode i)) ∧ t.cmdidx = s.cmdidx) ∨ t.cmdidx.toNat = (s.cmdidx.toNat + 1) % 2 ^ 32) ∧
  (∀ w s, s.fault = true → acceptWord w s = .next s) ∧
  ∀ (i : Instr) (s t : State) (c : BitVec 32), exec i s = .next t →
    ∃ t', exec i { s with cmdidx := c } = .next t' ∧ { t' with cmdidx := t.cmdidx, faultidx := t.faultidx } = t

/-! ### System and choice commands -/

/-- NOP (40_system_choice.md R131): its one word, its retirement and nothing else, ILLEGAL_FIELD for the other words of
its opcode, ignored with a fault recorded, CMDIDX 1 after it from reset. -/
def Obligations.NopRetires : Prop :=
  (∀ s, exec .nop s = .next s.retire) ∧
  (∀ (prm : Params) (w : Word), w.toNat / 2 ^ 24 = 0x01 →
    decode prm w = if w = 0x01000000 then .ok .nop else .error .illegalField) ∧
  (∀ s, s.fault = true → acceptWord 0x01000000 s = .next s) ∧
  ∃ t, acceptWord 0x01000000 State.reset = .next t ∧ hostRead t 0x024 = 1

/-- CH_SET, CH_NOT, CH_AND, CH_OR, CH_XOR complete where their sources hold values, with the bits of
40_system_choice.md R133 to R137. -/
def Obligations.ChoiceCommands : Prop :=
  (∀ (s : State) (d : RegNo) (imm : Imm), (Instr.chSet d imm).WellFormed s.params →
    exec (.chSet d imm) s = .next (s.writeC d (decide (imm = 1))).retire) ∧
  (∀ (s : State) (d a : RegNo) (x : Bool), (Instr.chNot d a).WellFormed s.params → s.readC a = some x →
    exec (.chNot d a) s = .next (s.writeC d (decide (x = false))).retire) ∧
  ∀ (s : State) (d a b : RegNo) (x y : Bool), d.toNat < s.params.nc → a.toNat < s.params.nc → b.toNat < s.params.nc →
    s.readC a = some x → s.readC b = some y →
      exec (.chAnd d a b) s = .next (s.writeC d (decide (x = true ∧ y = true))).retire ∧
      exec (.chOr d a b) s = .next (s.writeC d (decide (x = true ∨ y = true))).retire ∧
      exec (.chXor d a b) s = .next (s.writeC d (decide (x ≠ y))).retire

/-! ### Field commands -/

/-- FE_LD loads the 32 bytes modulo 2^255 as a field value, FE_ST stores the canonical little-endian encoding, and the
slot then reads as it (41_field.md R170, R171). -/
def Obligations.FieldLoadStore : Prop :=
  (∀ (s : State) (d : RegNo) (imm : Imm), (Instr.feLd d imm).WellFormed s.params →
    ∃ z : Fe, z.Below 51 ∧ z.gf = ((le (memRead s.oram (32 * imm.toNat) 32) % 2 ^ 255 : Nat) : GF) ∧
      exec (.feLd d imm) s = .next (s.writeF d z).retire) ∧
  ∀ (s : State) (a : RegNo) (imm : Imm) (x : Fe), (Instr.feSt a imm).WellFormed s.params → s.readF a = some x →
    x.Below 54 →
      exec (.feSt a imm) s = .next (s.writeSlots imm (leBytes 32 x.fval)).retire ∧
      (Memory.wf s.oram = true →
        le (memRead (s.writeSlots imm (leBytes 32 x.fval)).oram (32 * imm.toNat) 32) = x.fval)

/-- The constants the block loads: FE_CONST's eight values (41_field.md R160, R172), the identity and the basepoint
(43_point.md R262, R270, R271), and PT_MOV's copy (R272). -/
def Obligations.Constants : Prop :=
  (∀ (s : State) (d : RegNo) (imm : Imm), (Instr.feConst d imm).WellFormed s.params →
    ∃ v, [0, 1, p - 1, 37095705934669439343138083508754565189542113879843219016388785533085940283555,
        16295367250680780974490674513165176452449235426866156013048779062215315747161,
        19681161376707505956807079304988542015446066515923890162744021073123829784752, 486662,
        p - 486662][imm.toNat]? = some v ∧
      exec (.feConst d imm) s = .next (s.writeF d (Fe.ofValue v)).retire) ∧
  (∀ (s : State) (d : RegNo), d.toNat < s.params.np →
    (∃ e : Ext, e.Below 51 ∧ e.gf = ⟨0, 1, 1, 0⟩ ∧ exec (.ptIdent d) s = .next (s.writeP d (.ext e)).retire) ∧
    ∃ e : Ext, e.Below 51 ∧
      e.gf = ⟨15112221349535400772501151409588531511454012693041857206046113283949847762202,
        46316835694926478169428394003475163141307993866256225615783033603165251855960, 1,
        46827403850823179245072216630277197565144205554125654976674165829533817101731⟩ ∧
      exec (.ptBase d) s = .next (s.writeP d (.ext e)).retire) ∧
  ∀ (s : State) (d a : RegNo) (q : Point), (Instr.ptMov d a).WellFormed s.params → s.readP a = some q →
    exec (.ptMov d a) s = .next (s.writeP d q).retire

/-- FE_MOV copies the limb vector; FE_RED writes the canonical one: limbs below 2^51, the integer below `p`
(41_field.md R173, R185). -/
def Obligations.FieldMove : Prop :=
  ∀ (s : State) (d a : RegNo) (x : Fe), d.toNat < s.params.nf → a.toNat < s.params.nf → s.readF a = some x →
    exec (.feMov d a) s = .next (s.writeF d x).retire ∧
    (x.Below 54 → ∃ z : Fe, z.Below 51 ∧ z.limbSum < p ∧ z.gf = x.gf ∧
      exec (.feRed d a) s = .next (s.writeF d z).retire)

/-- FE_ADD, FE_SUB, FE_NEG, FE_MUL, FE_SQ, FE_SQ2 complete on loose limbs with the value of their rule, below 2^53 per
limb (41_field.md R166, R174 to R179). -/
def Obligations.FieldRing : Prop :=
  ∀ (s : State) (d a b : RegNo) (x y : Fe), d.toNat < s.params.nf → a.toNat < s.params.nf → b.toNat < s.params.nf →
    s.readF a = some x → s.readF b = some y → x.Below 54 → y.Below 54 →
      (∃ z : Fe, z.Below 53 ∧ z.gf = x.gf + y.gf ∧ exec (.feAdd d a b) s = .next (s.writeF d z).retire) ∧
      (∃ z : Fe, z.Below 53 ∧ z.gf = x.gf - y.gf ∧ exec (.feSub d a b) s = .next (s.writeF d z).retire) ∧
      (∃ z : Fe, z.Below 53 ∧ z.gf = -x.gf ∧ exec (.feNeg d a) s = .next (s.writeF d z).retire) ∧
      (∃ z : Fe, z.Below 53 ∧ z.gf = x.gf * y.gf ∧ exec (.feMul d a b) s = .next (s.writeF d z).retire) ∧
      (∃ z : Fe, z.Below 53 ∧ z.gf = x.gf ^ 2 ∧ exec (.feSq d a) s = .next (s.writeF d z).retire) ∧
      ∃ z : Fe, z.Below 53 ∧ z.gf = 2 * x.gf ^ 2 ∧ exec (.feSq2 d a) s = .next (s.writeF d z).retire

/-- FE_POW2K, FE_INV, FE_POWP58, FE_POW22501 complete on loose limbs with the power of their rule (41_field.md R180 to
R183). -/
def Obligations.FieldPowers : Prop :=
  ∀ (s : State) (d a b : RegNo) (imm : Imm) (x : Fe), s.readF b = some x → x.Below 54 →
    ((Instr.fePow2k d b imm).WellFormed s.params →
      ∃ z : Fe, z.Below 53 ∧ z.gf = x.gf ^ 2 ^ imm.toNat ∧
        exec (.fePow2k d b imm) s = .next (s.writeF d z).retire) ∧
    ((Instr.feInv d b).WellFormed s.params →
      ∃ z : Fe, z.Below 53 ∧ z.gf = x.gf ^ (p - 2) ∧ exec (.feInv d b) s = .next (s.writeF d z).retire) ∧
    ((Instr.fePowp58 d b).WellFormed s.params →
      ∃ z : Fe, z.Below 53 ∧ z.gf = x.gf ^ (2 ^ 252 - 3) ∧ exec (.fePowp58 d b) s = .next (s.writeF d z).retire) ∧
    ((Instr.fePow22501 d a b).WellFormed s.params →
      ∃ z y : Fe, z.Below 53 ∧ y.Below 53 ∧ z.gf = x.gf ^ (2 ^ 250 - 1) ∧ y.gf = x.gf ^ 11 ∧
        exec (.fePow22501 d a b) s = .next ((s.writeF d z).writeF a y).retire)

/-- FE_INV gives the inverse: the product with a nonzero source is 1, and 0 gives 0 (41_field.md R181). -/
def Obligations.FieldInverse : Prop :=
  ∀ (s : State) (d a : RegNo) (x : Fe), (Instr.feInv d a).WellFormed s.params → s.readF a = some x → x.Below 54 →
    ∃ z : Fe, exec (.feInv d a) s = .next (s.writeF d z).retire ∧ (x.gf ≠ 0 → x.gf * z.gf = 1) ∧
      (x.gf = 0 → z.gf = 0)

/-- FE_SQRTRI (41_field.md R184): the nonnegative root of `u/v` with choice 1 where `u/v` is a square, of `i u/v` with
choice 0 where it is not; the root 0 for `v = 0`, with choice 1 exactly for `u = 0`. -/
def Obligations.FieldSqrtRatio : Prop :=
  ∀ (s : State) (d a b c : RegNo) (x y : Fe), (Instr.feSqrtri d a b c).WellFormed s.params → s.readF a = some x →
    s.readF b = some y → x.Below 54 → y.Below 54 →
      ∃ (z : Fe) (ok : Bool), z.Below 53 ∧ z.fval % 2 = 0 ∧
        exec (.feSqrtri d a b c) s = .next ((s.writeF d z).writeC c ok).retire ∧
        (y.gf = 0 → z.gf = 0 ∧ (ok = true ↔ x.gf = 0)) ∧
        (y.gf ≠ 0 → (ok = true ↔ ∃ r : GF, r ^ 2 * y.gf = x.gf) ∧ (ok = true → z.gf ^ 2 * y.gf = x.gf) ∧
          (ok = false → z.gf ^ 2 * y.gf = feSqrtM1.gf * x.gf))

/-- FE_CSEL, FE_CNEG, FE_CASSIGN complete where their own sources hold values: choice 0 keeps the first operand
(41_field.md R186 to R188). The destination of FE_CSEL is no source and may be EMPTY; that of the in-place commands is
one. -/
def Obligations.FieldSelect : Prop :=
  (∀ (s : State) (d a b c : RegNo) (x y : Fe) (k : Bool), (Instr.feCsel d a b c).WellFormed s.params →
    s.readF a = some x → s.readF b = some y → s.readC c = some k →
      exec (.feCsel d a b c) s = .next (s.writeF d (if k = false then x else y)).retire) ∧
  (∀ (s : State) (d a c : RegNo) (x z : Fe) (k : Bool), (Instr.feCassign d a c).WellFormed s.params →
    s.readF a = some x → s.readF d = some z → s.readC c = some k →
      exec (.feCassign d a c) s = .next (s.writeF d (if k = true then x else z)).retire) ∧
  ∀ (s : State) (d c : RegNo) (z : Fe) (k : Bool), (Instr.feCneg d c).WellFormed s.params →
    s.readF d = some z → s.readC c = some k → z.Below 54 →
      ∃ v : Fe, v.Below 54 ∧ v.gf = (if k = true then -z.gf else z.gf) ∧ (k = false → v = z) ∧
        exec (.feCneg d c) s = .next (s.writeF d v).retire

/-- FE_EQ, FE_ISNEG, FE_ISZERO complete with the test of the canonical values (41_field.md R189 to R191). -/
def Obligations.FieldTests : Prop :=
  ∀ (s : State) (d a b : RegNo) (x y : Fe), d.toNat < s.params.nc → a.toNat < s.params.nf → b.toNat < s.params.nf →
    s.readF a = some x → s.readF b = some y → x.Below 54 → y.Below 54 →
      exec (.feEq d a b) s = .next (s.writeC d (decide (x.fval = y.fval))).retire ∧
      exec (.feIsneg d a) s = .next (s.writeC d (decide (x.fval % 2 = 1))).retire ∧
      exec (.feIszero d a) s = .next (s.writeC d (decide (x.fval = 0))).retire

/-! ### Scalar and digit commands -/

/-- SC_LD, SC_LDW, SC_ST, SC_MOV, DG_ST complete with the integers and bytes of 42_scalar.md R230 to R233 and R246, and
the slots stored to then read as what was stored. -/
def Obligations.ScalarAndDigitMoves : Prop :=
  (∀ (s : State) (d : RegNo) (imm : Imm), (Instr.scLd d imm).WellFormed s.params →
    ∃ v : Scalar, v.toNat = le (memRead s.oram (32 * imm.toNat) 32) % 2 ^ 255 ∧
      exec (.scLd d imm) s = .next (s.writeS d v).retire) ∧
  (∀ (s : State) (d : RegNo) (imm : Imm), (Instr.scLdw d imm).WellFormed s.params →
    ∃ v : Scalar, v.toNat = le (memRead s.oram (32 * imm.toNat) 64) % ell ∧
      exec (.scLdw d imm) s = .next (s.writeS d v).retire) ∧
  (∀ (s : State) (a : RegNo) (imm : Imm) (x : Scalar), (Instr.scSt a imm).WellFormed s.params → s.readS a = some x →
    exec (.scSt a imm) s = .next (s.writeSlots imm (leBytes 32 x.toNat)).retire ∧
    (Memory.wf s.oram = true →
      le (memRead (s.writeSlots imm (leBytes 32 x.toNat)).oram (32 * imm.toNat) 32) = x.toNat)) ∧
  (∀ (s : State) (d a : RegNo) (x : Scalar), (Instr.scMov d a).WellFormed s.params → s.readS a = some x →
    exec (.scMov d a) s = .next (s.writeS d x).retire) ∧
  ∀ (s : State) (a : RegNo) (imm : Imm) (g : Digits), (Instr.dgSt a imm).WellFormed s.params → s.readDG a = some g →
    g.Legal →
      exec (.dgSt a imm) s = .next (s.writeSlots imm g.dig).retire ∧
      (Memory.wf s.oram = true → memRead (s.writeSlots imm g.dig).oram (32 * imm.toNat) 256 = g.dig)

/-- SC_ADD, SC_SUB, SC_MUL, SC_NEG, SC_RED complete on every content below 2^255, canonical or not, with the canonical
result modulo `l` (42_scalar.md R214, R234 to R238). -/
def Obligations.ScalarArithmetic : Prop :=
  ∀ (s : State) (d a b : RegNo) (x y : Scalar), d.toNat < s.params.ns → a.toNat < s.params.ns →
    b.toNat < s.params.ns → s.readS a = some x → s.readS b = some y → x.toNat < 2 ^ 255 → y.toNat < 2 ^ 255 →
      (∃ v : Scalar, v.toNat = (x.toNat + y.toNat) % ell ∧ exec (.scAdd d a b) s = .next (s.writeS d v).retire) ∧
      (∃ v : Scalar, (v.toNat : Int) = ((x.toNat : Int) - y.toNat) % ell ∧
        exec (.scSub d a b) s = .next (s.writeS d v).retire) ∧
      (∃ v : Scalar, v.toNat = x.toNat * y.toNat % ell ∧ exec (.scMul d a b) s = .next (s.writeS d v).retire) ∧
      (∃ v : Scalar, v.toNat = (ell - x.toNat % ell) % ell ∧ exec (.scNeg d a) s = .next (s.writeS d v).retire) ∧
      ∃ v : Scalar, v.toNat = x.toNat % ell ∧ exec (.scRed d a) s = .next (s.writeS d v).retire

/-- SC_MMUL, SC_TOMONT, SC_FROMMONT complete with the Montgomery products, `R = 2^260`, and SC_ISCANON with the
comparison to `l` (42_scalar.md R239 to R242). -/
def Obligations.ScalarMontgomery : Prop :=
  ∀ (s : State) (d a b c : RegNo) (x y : Scalar), d.toNat < s.params.ns → a.toNat < s.params.ns →
    b.toNat < s.params.ns → c.toNat < s.params.nc → s.readS a = some x → s.readS b = some y → x.toNat < 2 ^ 255 →
    y.toNat < 2 ^ 255 →
      (∃ v : Scalar, v.toNat < ell ∧ v.toNat * 2 ^ 260 % ell = x.toNat * y.toNat % ell ∧
        exec (.scMmul d a b) s = .next (s.writeS d v).retire) ∧
      (∃ v : Scalar, v.toNat = x.toNat * 2 ^ 260 % ell ∧ exec (.scTomont d a) s = .next (s.writeS d v).retire) ∧
      (∃ v : Scalar, v.toNat < ell ∧ v.toNat * 2 ^ 260 % ell = x.toNat % ell ∧
        exec (.scFrommont d a) s = .next (s.writeS d v).retire) ∧
      exec (.scIscanon c a) s = .next (s.writeC c (decide (x.toNat < ell))).retire

/-- SC_RADIX16 and SC_RADIX2W complete with digits that resynthesise the integer held and lie in the ranges of
42_scalar.md R222, R223 (commands R243, R244). -/
def Obligations.RadixDigits : Prop :=
  (∀ (s : State) (d a : RegNo) (x : Scalar), (Instr.scRadix16 d a).WellFormed s.params → s.readS a = some x →
    x.toNat < 2 ^ 255 →
      ∃ g : Digits, exec (.scRadix16 d a) s = .next (s.writeDG d g).retire ∧ g.Legal ∧ g.len = 64 ∧
        g.dig.foldr (fun (b : Byte) (n : Int) => b.toInt + 16 * n) 0 = x.toNat ∧
        (∀ i < 63, -8 ≤ (g.dig.getD i 0).toInt ∧ (g.dig.getD i 0).toInt ≤ 7) ∧
        0 ≤ (g.dig.getD 63 0).toInt ∧ (g.dig.getD 63 0).toInt ≤ 8) ∧
  ∀ (s : State) (d a : RegNo) (imm : Imm) (x : Scalar), (Instr.scRadix2w d a imm).WellFormed s.params →
    s.readS a = some x → x.toNat < 2 ^ 255 →
      ∃ g : Digits, exec (.scRadix2w d a imm) s = .next (s.writeDG d g).retire ∧ g.Legal ∧
        [64, 52, 43, 37, 33][imm.toNat - 4]? = some g.len ∧
        g.dig.foldr (fun (b : Byte) (n : Int) => b.toInt + 2 ^ imm.toNat * n) 0 = x.toNat ∧
        ∀ i < g.len - 1, -2 ^ (imm.toNat - 1) ≤ (g.dig.getD i 0).toInt ∧
          (g.dig.getD i 0).toInt < 2 ^ (imm.toNat - 1)

/-- SC_NAF completes with a non-adjacent form: the digits resynthesise the integer held, a nonzero digit is odd, below
2^(w−1) in magnitude and followed by `w − 1` zeros (42_scalar.md R224, R245). -/
def Obligations.NafDigits : Prop :=
  ∀ (s : State) (d a : RegNo) (imm : Imm) (x : Scalar), (Instr.scNaf d a imm).WellFormed s.params →
    s.readS a = some x → x.toNat < 2 ^ 255 →
      ∃ g : Digits, exec (.scNaf d a imm) s = .next (s.writeDG d g).retire ∧ g.Legal ∧ g.len = 256 ∧
        g.dig.foldr (fun (b : Byte) (n : Int) => b.toInt + 2 * n) 0 = x.toNat ∧
        ∀ i, (g.dig.getD i 0).toInt ≠ 0 →
          (g.dig.getD i 0).toInt % 2 = 1 ∧ (g.dig.getD i 0).toInt.natAbs < 2 ^ (imm.toNat - 1) ∧
          ∀ j, i < j → j < i + imm.toNat → g.dig.getD j 0 = 0

/-! ### Point commands -/

/-- PT_DECOMP (43_point.md R273): with `y` from the slot, the curve point of that `y` whose `x` has the sign bit's
parity, and choice 1; where there is none, or `x = 0` with sign bit 1 is rejected, the register EMPTY and choice 0. -/
def Obligations.PointDecompression : Prop :=
  ∀ (s : State) (d a : RegNo) (imm : Imm) (bytes : List Byte) (sign : Bool) (y : GF),
    (Instr.ptDecomp d a imm).WellFormed s.params → bytes = memRead s.oram (32 * imm.toNat) 32 →
    sign = decide (2 ^ 255 ≤ le bytes) → y = ((le bytes % 2 ^ 255 : Nat) : GF) →
      (∀ x : GF, OnCurve x y → (x = 0 ∨ x.val % 2 = sign.toNat) →
        ¬(x = 0 ∧ sign = true ∧ s.params.rejectNegZero = true) →
          ∃ e : Ext, e.Below 54 ∧ e.gf = ⟨x, y, 1, x * y⟩ ∧
            exec (.ptDecomp d a imm) s = .next ((s.writeC a true).writeP d (.ext e)).retire) ∧
      ((∀ x : GF, ¬OnCurve x y) ∨ (OnCurve 0 y ∧ sign = true ∧ s.params.rejectNegZero = true) →
        exec (.ptDecomp d a imm) s = .next ((s.writeC a false).setP d none).retire)

/-- PT_COMP stores the canonical `y = Y/Z` with the parity of `x = X/Z` in bit 255, and the slot then reads as it
(43_point.md R274). -/
def Obligations.PointCompression : Prop :=
  ∀ (s : State) (a : RegNo) (imm : Imm) (e : Ext) (n : Nat), (Instr.ptComp a imm).WellFormed s.params →
    s.readP a = some (.ext e) → e.Below 54 → n = e.gf.aff.2.val + e.gf.aff.1.val % 2 * 2 ^ 255 →
      exec (.ptComp a imm) s = .next (s.writeSlots imm (leBytes 32 n)).retire ∧
      (Memory.wf s.oram = true → le (memRead (s.writeSlots imm (leBytes 32 n)).oram (32 * imm.toNat) 32) = n)

/-- The six conversions complete on their tag with the components of 43_point.md R275 to R280. -/
def Obligations.PointConversions : Prop :=
  ∀ (s : State) (d a : RegNo), d.toNat < s.params.np → a.toNat < s.params.np →
    (∀ e : Ext, s.readP a = some (.ext e) → e.Below 54 →
      (∃ q : Proj, q.Below 54 ∧ q.gf = e.gf.toProj ∧ exec (.ptE2p d a) s = .next (s.writeP d (.proj q)).retire) ∧
      (∃ q : PNiels, q.Below 54 ∧ q.gf = e.gf.toPN ∧ exec (.ptE2pn d a) s = .next (s.writeP d (.pniels q)).retire) ∧
      ∃ q : ANiels, q.Below 54 ∧ q.gf = e.gf.toAN ∧ exec (.ptE2an d a) s = .next (s.writeP d (.aniels q)).retire) ∧
    (∀ e : Proj, s.readP a = some (.proj e) → e.Below 54 →
      ∃ q : Ext, q.Below 54 ∧ q.gf = e.gf.toExt ∧ exec (.ptP2e d a) s = .next (s.writeP d (.ext q)).retire) ∧
    ∀ e : Compl, s.readP a = some (.compl e) → e.Below 54 →
      (∃ q : Proj, q.Below 54 ∧ q.gf = e.gf.toProj ∧ exec (.ptC2p d a) s = .next (s.writeP d (.proj q)).retire) ∧
      ∃ q : Ext, q.Below 54 ∧ q.gf = e.gf.toExt ∧ exec (.ptC2e d a) s = .next (s.writeP d (.ext q)).retire

/-- PT_DBL, PT_ADD, PT_SUB complete on their tags, both Niels forms, with the components of 43_point.md R281 to
R283. -/
def Obligations.StagedArithmetic : Prop :=
  ∀ (s : State) (d a b : RegNo), d.toNat < s.params.np → a.toNat < s.params.np → b.toNat < s.params.np →
    (∀ e : Proj, s.readP a = some (.proj e) → e.Below 54 →
      ∃ q : Compl, q.Below 54 ∧ q.gf = e.gf.dbl ∧ exec (.ptDbl d a) s = .next (s.writeP d (.compl q)).retire) ∧
    (∀ (e : Ext) (n : PNiels), s.readP a = some (.ext e) → s.readP b = some (.pniels n) → e.Below 54 → n.Below 54 →
      (∃ q : Compl, q.Below 54 ∧ q.gf = e.gf.addPN n.gf ∧
        exec (.ptAdd d a b) s = .next (s.writeP d (.compl q)).retire) ∧
      ∃ q : Compl, q.Below 54 ∧ q.gf = e.gf.subPN n.gf ∧
        exec (.ptSub d a b) s = .next (s.writeP d (.compl q)).retire) ∧
    ∀ (e : Ext) (n : ANiels), s.readP a = some (.ext e) → s.readP b = some (.aniels n) → e.Below 54 → n.Below 54 →
      (∃ q : Compl, q.Below 54 ∧ q.gf = e.gf.addAN n.gf ∧
        exec (.ptAdd d a b) s = .next (s.writeP d (.compl q)).retire) ∧
      ∃ q : Compl, q.Below 54 ∧ q.gf = e.gf.subAN n.gf ∧
        exec (.ptSub d a b) s = .next (s.writeP d (.compl q)).retire

/-- PT_NEG, PT_CNEG, PT_CSEL, PT_CASSIGN complete on the tags they accept: the negation of 43_point.md R284 for each
tag, for PT_NEG in every state of the choice bits; taken or not by the choice for PT_CNEG (R286); and the selected
content (R285, R287). -/
def Obligations.PointNegSelect : Prop :=
  (∀ (s : State) (d a : RegNo), (Instr.ptNeg d a).WellFormed s.params →
      (∀ e : Ext, s.readP a = some (.ext e) → e.Below 54 →
        ∃ q : Ext, q.Below 54 ∧ q.gf = e.gf.neg ∧
          exec (.ptNeg d a) s = .next (s.writeP d (.ext q)).retire) ∧
      (∀ n : PNiels, s.readP a = some (.pniels n) → n.Below 54 →
        ∃ q : PNiels, q.Below 54 ∧ q.gf = n.gf.neg ∧
          exec (.ptNeg d a) s = .next (s.writeP d (.pniels q)).retire) ∧
      ∀ n : ANiels, s.readP a = some (.aniels n) → n.Below 54 →
        ∃ q : ANiels, q.Below 54 ∧ q.gf = n.gf.neg ∧
          exec (.ptNeg d a) s = .next (s.writeP d (.aniels q)).retire) ∧
  (∀ (s : State) (d c : RegNo) (k : Bool), (Instr.ptCneg d c).WellFormed s.params → s.readC c = some k →
      (∀ e : Ext, s.readP d = some (.ext e) → e.Below 54 →
        ∃ q : Ext, q.Below 54 ∧ q.gf = e.gf.neg ∧
          exec (.ptCneg d c) s = .next (s.writeP d (.ext (if k = true then q else e))).retire) ∧
      (∀ n : PNiels, s.readP d = some (.pniels n) → n.Below 54 →
        ∃ q : PNiels, q.Below 54 ∧ q.gf = n.gf.neg ∧
          exec (.ptCneg d c) s = .next (s.writeP d (.pniels (if k = true then q else n))).retire) ∧
      ∀ n : ANiels, s.readP d = some (.aniels n) → n.Below 54 →
        ∃ q : ANiels, q.Below 54 ∧ q.gf = n.gf.neg ∧
          exec (.ptCneg d c) s = .next (s.writeP d (.aniels (if k = true then q else n))).retire) ∧
  (∀ (s : State) (d a b c : RegNo) (k : Bool) (q r : Point), (Instr.ptCsel d a b c).WellFormed s.params →
    s.readC c = some k → s.readP a = some q → s.readP b = some r → q.tag = r.tag →
    (q.tag = .ext ∨ q.tag = .pniels ∨ q.tag = .aniels) →
      exec (.ptCsel d a b c) s = .next (s.writeP d (if k = false then q else r)).retire) ∧
  ∀ (s : State) (d a c : RegNo) (k : Bool) (q r : Point), (Instr.ptCassign d a c).WellFormed s.params →
    s.readC c = some k → s.readP a = some q → s.readP d = some r → q.tag = r.tag →
    (q.tag = .ext ∨ q.tag = .pniels ∨ q.tag = .aniels) →
      exec (.ptCassign d a c) s = .next (s.writeP d (if k = true then q else r)).retire

/-- PT_EQ, PT_ISIDENT, PT_ISSMALL complete on `EXT` contents with the tests of 43_point.md R288 to R290: equality of
compressed forms, which on valid points is equality of affine points; `X = 0` and `Y = Z`, of the point or of 8 times
the point. -/
def Obligations.PointTests : Prop :=
  ∀ (s : State) (d a b : RegNo) (e f : Ext), d.toNat < s.params.nc → a.toNat < s.params.np → b.toNat < s.params.np →
    s.readP a = some (.ext e) → s.readP b = some (.ext f) → e.Below 54 → f.Below 54 →
      (∃ k : Bool, exec (.ptEq d a b) s = .next (s.writeC d k).retire ∧
        (k = true ↔ e.gf.aff.2 = f.gf.aff.2 ∧ e.gf.aff.1.val % 2 = f.gf.aff.1.val % 2) ∧
        (e.gf.Valid → f.gf.Valid → (k = true ↔ e.gf.aff = f.gf.aff))) ∧
      (∃ k : Bool, exec (.ptIsident d a) s = .next (s.writeC d k).retire ∧
        (k = true ↔ e.gf.X = 0 ∧ e.gf.Y = e.gf.Z)) ∧
      ∃ k : Bool, exec (.ptIssmall d a) s = .next (s.writeC d k).retire ∧
        (k = true ↔ e.gf.mulcof.X = 0 ∧ e.gf.mulcof.Y = e.gf.mulcof.Z)

/-- PT_MULCOF, PT_EADD, PT_ESUB, PT_EDBL complete on `EXT` contents with the components their staging gives
(43_point.md R291 to R294). -/
def Obligations.PointComposites : Prop :=
  ∀ (s : State) (d a b : RegNo) (e f : Ext), d.toNat < s.params.np → a.toNat < s.params.np → b.toNat < s.params.np →
    s.readP a = some (.ext e) → s.readP b = some (.ext f) → e.Below 54 → f.Below 54 →
      (∃ q : Ext, q.Below 54 ∧ q.gf = e.gf.mulcof ∧ exec (.ptMulcof d a) s = .next (s.writeP d (.ext q)).retire) ∧
      (∃ q : Ext, q.Below 54 ∧ q.gf = e.gf.add f.gf ∧ exec (.ptEadd d a b) s = .next (s.writeP d (.ext q)).retire) ∧
      (∃ q : Ext, q.Below 54 ∧ q.gf = e.gf.sub f.gf ∧ exec (.ptEsub d a b) s = .next (s.writeP d (.ext q)).retire) ∧
      ∃ q : Ext, q.Below 54 ∧ q.gf = e.gf.dbl ∧ exec (.ptEdbl d a) s = .next (s.writeP d (.ext q)).retire

/-- PT_EADD, PT_ESUB, PT_EDBL compute the group law of 43_point.md R260 on valid points, every pair of them, and write
valid points (R265, R292 to R294). -/
def Obligations.GroupLaw : Prop :=
  ∀ (s : State) (d a b : RegNo) (e f : Ext), d.toNat < s.params.np → a.toNat < s.params.np → b.toNat < s.params.np →
    s.readP a = some (.ext e) → s.readP b = some (.ext f) → e.Below 54 → f.Below 54 → e.gf.Valid → f.gf.Valid →
      (∃ q : Ext, exec (.ptEadd d a b) s = .next (s.writeP d (.ext q)).retire ∧ q.gf.Valid ∧
        q.gf.aff = affAdd e.gf.aff f.gf.aff) ∧
      (∃ q : Ext, exec (.ptEsub d a b) s = .next (s.writeP d (.ext q)).retire ∧ q.gf.Valid ∧
        q.gf.aff = affAdd e.gf.aff (-f.gf.aff.1, f.gf.aff.2)) ∧
      ∃ q : Ext, exec (.ptEdbl d a) s = .next (s.writeP d (.ext q)).retire ∧ q.gf.Valid ∧
        q.gf.aff = affAdd e.gf.aff e.gf.aff

/-- PT_ISSMALL gives 1 for exactly the points whose compressed encoding is one of the eight of 43_point.md R263 (R289).
The encodings are written as little-endian integers. -/
def Obligations.SmallOrderPoints : Prop :=
  ∀ (s : State) (d a : RegNo) (e : Ext), (Instr.ptIssmall d a).WellFormed s.params → s.readP a = some (.ext e) →
    e.Below 54 → e.gf.Valid →
      ∃ k : Bool, exec (.ptIssmall d a) s = .next (s.writeC d k).retire ∧
        (k = true ↔ le (compress e) ∈
          [1, p - 1, 0, 2 ^ 255,
            0x05fc536d880238b13933c6d305acdfd5f098eff289f4c345b027b2c28f95e826,
            0x85fc536d880238b13933c6d305acdfd5f098eff289f4c345b027b2c28f95e826,
            0x7a03ac9277fdc74ec6cc392cfa53202a0f67100d760b3cba4fd84d3d706a17c7,
            0xfa03ac9277fdc74ec6cc392cfa53202a0f67100d760b3cba4fd84d3d706a17c7])

/-- Compression round trips: the 32 bytes of a valid point decompress, under either value of DECOMP_REJECT_NEG_ZERO, to
a content with `Z = 1` of the same affine point (43_point.md R274). -/
def Obligations.CompressionRoundTrip : Prop :=
  ∀ (e : Ext) (reject : Bool), e.Below 54 → e.gf.Valid →
    ∃ f : Ext, decompress reject (compress e) = some f ∧ f.Below 54 ∧ f.gf.Valid ∧ f.gf.Z = 1 ∧ f.gf.aff = e.gf.aff

/-! ### Multipliers -/

/-- PT_SMUL and PT_DSMB complete with the components the algorithms of 44_scalarmul_msm.md R325 and R329 give over
GF(p), with tables indexed directly: the mask scan of R322 is their realisation. -/
def Obligations.MultiplierCommands : Prop :=
  (∀ (s : State) (d a b : RegNo) (e : Ext) (n : Scalar), (Instr.ptSmul d a b).WellFormed s.params →
    s.readP a = some (.ext e) → s.readS b = some n → e.Below 54 → n.toNat < 2 ^ 255 →
      ∃ q : Ext, q.Below 54 ∧ q.gf = e.gf.smul n.toNat ∧ exec (.ptSmul d a b) s = .next (s.writeP d (.ext q)).retire) ∧
  ∀ (s : State) (d a b c : RegNo) (e : Ext) (m n : Scalar), (Instr.ptDsmb d a b c).WellFormed s.params →
    s.readS a = some m → s.readP b = some (.ext e) → s.readS c = some n → e.Below 54 → m.toNat < 2 ^ 255 →
    n.toNat < 2 ^ 255 →
      ∃ q : Ext, q.Below 54 ∧ q.gf = GExt.dsmb m.toNat e.gf n.toNat ∧
        exec (.ptDsmb d a b c) s = .next (s.writeP d (.ext q)).retire

/-- MSM_CLR empties the pair list, MSM_PUSH appends the pair of contents, MSM_RUN writes the sum the algorithm of
44_scalarmul_msm.md R333 gives over GF(p) and empties the list (R331 to R333). -/
def Obligations.MsmCommands : Prop :=
  (∀ s : State, exec .msmClr s = .next { s with msm := [] }.retire) ∧
  (∀ (s : State) (a b : RegNo) (n : Scalar) (e : Ext), (Instr.msmPush a b).WellFormed s.params →
    s.readS a = some n → s.readP b = some (.ext e) → s.msm.length < s.params.msmCap →
      exec (.msmPush a b) s = .next { s with msm := s.msm ++ [(⟨n, e⟩ : MsmPair)] }.retire) ∧
  ∀ (s : State) (d : RegNo), (Instr.msmRun d).WellFormed s.params → s.msm ≠ [] →
    (∀ m ∈ s.msm, m.point.Below 54 ∧ m.scalar.toNat < 2 ^ 255) →
      ∃ q : Ext, q.Below 54 ∧ q.gf = gMsm (s.msm.map fun m => (m.scalar.toNat, m.point.gf)) ∧
        exec (.msmRun d) s = .next { s.writeP d (.ext q) with msm := [] }.retire

/-- `[0]P` is the identity and `[1]P` is `P` (44_scalarmul_msm.md R325, R334): `X = 0` and `Y = Z` for the scalar 0,
the affine point of the source for the scalar 1. -/
def Obligations.SmulZeroOne : Prop :=
  ∀ (s : State) (d a b : RegNo) (e : Ext) (n : Scalar), (Instr.ptSmul d a b).WellFormed s.params →
    s.readP a = some (.ext e) → s.readS b = some n → e.Below 54 → e.gf.Valid →
      ∃ q : Ext, exec (.ptSmul d a b) s = .next (s.writeP d (.ext q)).retire ∧
        (n.toNat = 0 → q.gf.X = 0 ∧ q.gf.Y = q.gf.Z) ∧ (n.toNat = 1 → q.gf.aff = e.gf.aff)

/-- The basepoint table: 64 entries, entry `j` the affine Niels form of `[2j+1]B` (44_scalarmul_msm.md R327). That the
limbs of the entries are below 2^51 is the model's choice (log entry 6): R327 gives points and not limbs. -/
def Obligations.BasepointTable : Prop :=
  baseTable.length = 64 ∧
  ∀ j < 64, ∃ n : ANiels, baseTable[j]? = some n ∧ n.Below 51 ∧
    ∀ x y : GF, affMul extBase.gf.aff (2 * j + 1) = (x, y) →
      n.gf = (⟨y + x, y - x, 2 * gfD * x * y⟩ : GANiels)

/-- The multipliers compute the multiples of the group: `[n]` of PT_SMUL, `[m]A + [n]B` of PT_DSMB, the sum of MSM_RUN,
on valid points, the multiples being repeated additions by the law of 43_point.md R260 (44_scalarmul_msm.md R320, R325,
R329, R333). -/
def Obligations.GroupMultiples : Prop :=
  (∀ (s : State) (d a b : RegNo) (e : Ext) (n : Scalar), (Instr.ptSmul d a b).WellFormed s.params →
    s.readP a = some (.ext e) → s.readS b = some n → e.Below 54 → n.toNat < 2 ^ 255 → e.gf.Valid →
      ∃ q : Ext, exec (.ptSmul d a b) s = .next (s.writeP d (.ext q)).retire ∧ q.gf.Valid ∧
        q.gf.aff = affMul e.gf.aff n.toNat) ∧
  (∀ (s : State) (d a b c : RegNo) (e : Ext) (m n : Scalar), (Instr.ptDsmb d a b c).WellFormed s.params →
    s.readS a = some m → s.readP b = some (.ext e) → s.readS c = some n → e.Below 54 → m.toNat < 2 ^ 255 →
    n.toNat < 2 ^ 255 → e.gf.Valid →
      ∃ q : Ext, exec (.ptDsmb d a b c) s = .next (s.writeP d (.ext q)).retire ∧ q.gf.Valid ∧
        q.gf.aff = affAdd (affMul e.gf.aff m.toNat) (affMul extBase.gf.aff n.toNat)) ∧
  ∀ (s : State) (d : RegNo), (Instr.msmRun d).WellFormed s.params → s.msm ≠ [] →
    (∀ m ∈ s.msm, m.point.Below 54 ∧ m.scalar.toNat < 2 ^ 255 ∧ m.point.gf.Valid) →
      ∃ q : Ext, exec (.msmRun d) s = .next { s.writeP d (.ext q) with msm := [] }.retire ∧ q.gf.Valid ∧
        q.gf.aff = s.msm.foldl (fun P m => affAdd P (affMul m.point.gf.aff m.scalar.toNat)) (0, 1)

/-! ### Elligator2 -/

/-- ELL2 completes with `u = dd` where `eps` is a square and `u = −dd − A` where it is not (45_elligator.md R351). -/
def Obligations.Elligator2Map : Prop :=
  ∀ (s : State) (d a : RegNo) (x : Fe) (dd eps : GF), (Instr.ell2 d a).WellFormed s.params → s.readF a = some x →
    x.Below 54 → dd = -486662 * gfInv (1 + 2 * x.gf ^ 2) → eps = dd * (dd ^ 2 + 486662 * dd + 1) →
      ∃ z : Fe, z.Below 53 ∧ exec (.ell2 d a) s = .next (s.writeF d z).retire ∧
        ((∃ r : GF, r ^ 2 = eps) → z.gf = dd) ∧ ((∀ r : GF, r ^ 2 ≠ eps) → z.gf = -dd - 486662)

/-- MTOE (45_elligator.md R352): the curve point of `y = (u − 1)/(u + 1)` whose `x` has the parity of the immediate;
ELLIGATOR, with the record alone written, where `u = −1` or there is no such point, or `x = 0` with sign 1 is rejected
(60_exceptions.md R409). -/
def Obligations.MontgomeryToEdwards : Prop :=
  ∀ (s : State) (d a : RegNo) (imm : Imm) (f : Fe) (u y : GF), (Instr.mtoe d a imm).WellFormed s.params →
    s.readF a = some f → f.Below 54 → u = f.gf → y = (u - 1) * gfInv (u + 1) →
      (∀ x : GF, u ≠ -1 → OnCurve x y → (x = 0 ∨ x.val % 2 = imm.toNat) →
        ¬(x = 0 ∧ imm = 1 ∧ s.params.rejectNegZero = true) →
          ∃ e : Ext, e.Below 54 ∧ e.gf = ⟨x, y, 1, x * y⟩ ∧
            exec (.mtoe d a imm) s = .next (s.writeP d (.ext e)).retire) ∧
      (u = -1 ∨ (∀ x : GF, ¬OnCurve x y) ∨ (OnCurve 0 y ∧ imm = 1 ∧ s.params.rejectNegZero = true) →
        exec (.mtoe d a imm) s = .next (s.takeFault .elligator (encode (.mtoe d a imm))))

/-- After ELL2, MTOE with sign 0 does not fault: it writes a valid point (45_elligator.md R351, R352). -/
def Obligations.ElligatorChain : Prop :=
  ∀ (s t : State) (d a q : RegNo) (x : Fe), s.Inv → s.fault = false → (Instr.ell2 d a).WellFormed s.params →
    (Instr.mtoe q d 0).WellFormed s.params → s.readF a = some x → exec (.ell2 d a) s = .next t →
      ∃ (u : State) (e : Ext), exec (.mtoe q d 0) t = .next u ∧ u.fault = false ∧ u.readP q = some (.ext e) ∧
        e.gf.Valid ∧ e.gf.Z = 1

/-! ### Invariants and reset -/

/-- Every step keeps the invariant of the state: limb bounds, scalars below 2^255, legal digit buffers, the capacity of
the pair list, the canonical form and the range of the memory, the fault record, the held reset (10_state.md R32, R34,
R40 to R42, R50; 41_field.md R166). -/
def Obligations.StepKeepsInv : Prop :=
  ∀ s t : State, s.Inv → step s = .next t → t.Inv

/-- Every step keeps every point register and every pair of the list on the curve, with nonzero denominators
(10_state.md R37, 43_point.md R265). -/
def Obligations.StepKeepsPointsValid : Prop :=
  ∀ s t : State, s.Inv → s.PointsValid → step s = .next t → t.PointsValid

/-- The reset state of every legal instance has the invariant, and its points are valid. -/
def Obligations.ResetHasInv : Prop :=
  ∀ prm : Params, prm.Legal → (State.resetOf prm).Inv ∧ (State.resetOf prm).PointsValid

/-- The state after either reset, register by register, and what the host reads of it (10_state.md R58). -/
def Obligations.ResetState : Prop :=
  (∀ s t : State, (t = s.resetBlock ∨ t = driveReset s true) →
    t.params = s.params ∧
    (∀ n, t.readF n = none ∧ t.readS n = none ∧ t.readP n = none ∧ t.readC n = none ∧ t.readDG n = none) ∧
    t.msm = [] ∧ (∀ a, readByte t.oram a = 0) ∧ t.cmdidx = 0 ∧
    t.fault = false ∧ t.faultcode = 0 ∧ t.faultcmd = 0 ∧ t.faultidx = 0 ∧
    hostRead t 0x000 = 0x45443235 ∧ hostRead t 0x004 = 0x00000007 ∧
    hostRead t 0x008 = param0 s.params ∧ hostRead t 0x00C = param1 s.params ∧
    hostRead t 0x014 = 0x00000002 ∧ hostRead t 0x018 = 0 ∧ hostRead t 0x01C = 0 ∧ hostRead t 0x020 = 0 ∧
    hostRead t 0x024 = 0 ∧ hostRead t 0x028 = 0 ∧ hostRead t 0x02C = 0 ∧ hostRead t 0x034 = 0 ∧ hostRead t 0x038 = 0) ∧
  hostRead State.reset 0x008 = 0x08080810 ∧ hostRead State.reset 0x00C = 0x00404002 ∧
  State.reset = State.reset.resetBlock

/-- The soft reset by bit 0 of CTRL and by nothing else written there; CTRL reads 0 (10_state.md R53). -/
def Obligations.SoftReset : Prop :=
  (∀ (s : State) (w : Word) (es : List BusEvent), s.bus = .write 0x030 w :: es → s.resetIn = false →
    step s = .next (if w.getLsbD 0 then { s with bus := es }.resetBlock else { s with bus := es })) ∧
  ∀ s, hostRead s 0x030 = 0

/-- The hard reset by the reset input, to the same state of the block as the soft one, in whatever state it comes; its
release; and no access accepted while it is asserted (70_reset_and_hazards.md R430, R431). That such an access is
refused is how the model says so (log entry 9). -/
def Obligations.HardReset : Prop :=
  (∀ (s : State) (es : List BusEvent), s.bus = .resetInput true :: es →
    step s = .next { { s with bus := es }.resetBlock with resetIn := true }) ∧
  (∀ (s : State) (es : List BusEvent), s.bus = .resetInput false :: es →
    step s = .next { s with bus := es, resetIn := false }) ∧
  ∀ (s : State) (e : BusEvent) (es : List BusEvent), s.bus = e :: es → s.resetIn = true →
    (∀ level, e ≠ .resetInput level) → step s = .refused .accessDuringReset

/-! ### The host's window -/

/-- Host accesses (20_memory.md R80): one that is not 32 bits wide or not aligned is refused; an aligned one inside the
window is performed, a read without side effect, a write to a read-only or unlisted offset without effect (10_state.md
R43). An access past the window stops with a fault of the model's own (log entry 7). -/
def Obligations.HostAccesses : Prop :=
  ∀ (s : State) (e : BusEvent) (es : List BusEvent), s.bus = e :: es → s.resetIn = false →
    (∀ o n, e = .otherWidth o n → step s = .refused .accessWidth) ∧
    (∀ o, o % 4 ≠ 0 → (e = .read o ∨ ∃ w, e = .write o w) → step s = .refused .misalignedAccess) ∧
    (∀ o, o % 4 = 0 → windowEnd s.params ≤ o → (e = .read o ∨ ∃ w, e = .write o w) →
      step s = .fault .outsideWindow) ∧
    (∀ o, o % 4 = 0 → o < windowEnd s.params → e = .read o →
      step s = .next { s with bus := es, readLog := s.readLog ++ [hostRead s o] }) ∧
    ∀ o w, o % 4 = 0 → o < 0x800 → o ≠ 0x010 → o ≠ 0x030 → e = .write o w → step s = .next { s with bus := es }

/-- STATUS and MSMCNT bit by bit, ID and VERSION (10_state.md R45, R46, R49, R52), and FAULTCODE, FAULTCMD, FAULTIDX
(R50). MSMCNT's eight bits hold the length because the capacity is at most 255. -/
def Obligations.StatusRegisters : Prop :=
  ∀ s : State,
    hostRead s 0x000 = 0x45443235 ∧ hostRead s 0x004 = 7 ∧
    ((hostRead s 0x014).getLsbD 0 = s.fault ∧ (hostRead s 0x014).getLsbD 1 = true ∧
      ∀ i, 2 ≤ i → (hostRead s 0x014).getLsbD i = false) ∧
    hostRead State.reset 0x014 = 0x00000002 ∧
    (s.Inv → (hostRead s 0x02C).toNat = s.msm.length ∧ s.msm.length ≤ s.params.msmCap) ∧
    (hostRead s 0x018).toNat = s.faultcode.toNat ∧ hostRead s 0x01C = s.faultcmd ∧ hostRead s 0x020 = s.faultidx

/-- CHOICE, PTAG and RVALID bit by bit (10_state.md R51, R54), and the byte fields of PARAM0 and PARAM1 on a legal
instance (R47). That the bits of registers an instance does not have read 0 is the model's choice (log entry 20). -/
def Obligations.MirrorRegisters : Prop :=
  ∀ s : State,
    (∀ i < 8, (hostRead s 0x028).getLsbD i = decide (s.C.getD i none = some true) ∧
      (hostRead s 0x028).getLsbD (8 + i) = (s.C.getD i none).isSome) ∧
    (∀ i, 16 ≤ i → (hostRead s 0x028).getLsbD i = false) ∧
    (∀ i < 8, (hostRead s 0x034).extractLsb' (4 * i) 3 = tagCode (s.P.getD i none) ∧
      (hostRead s 0x034).getLsbD (4 * i + 3) = false) ∧
    (∀ i < 16, (hostRead s 0x038).getLsbD i = (s.F.getD i none).isSome) ∧
    (∀ i < 8, (hostRead s 0x038).getLsbD (16 + i) = (s.S.getD i none).isSome) ∧
    (∀ i < 2, (hostRead s 0x038).getLsbD (24 + i) = (s.DG.getD i none).isSome) ∧
    (∀ i, 26 ≤ i → (hostRead s 0x038).getLsbD i = false) ∧
    (s.params.Legal →
      ((hostRead s 0x008).extractLsb' 0 8).toNat = s.params.nf ∧ ((hostRead s 0x008).extractLsb' 8 8).toNat = s.params.ns ∧
      ((hostRead s 0x008).extractLsb' 16 8).toNat = s.params.np ∧
      ((hostRead s 0x008).extractLsb' 24 8).toNat = s.params.nc ∧
      ((hostRead s 0x00C).extractLsb' 0 8).toNat = s.params.ndg ∧
      ((hostRead s 0x00C).extractLsb' 8 8).toNat = s.params.nslot ∧
      ((hostRead s 0x00C).extractLsb' 16 8).toNat = s.params.msmCap ∧
      (hostRead s 0x00C).getLsbD 24 = s.params.rejectNegZero ∧
      ∀ i, 25 ≤ i → (hostRead s 0x00C).getLsbD i = false)

/-- The ORAM window, little-endian (20_memory.md R75, R79): a word reads as its four bytes, a write sets those four and
no other, and eight words written to a slot give the integer `sum w_j 2^(32 j)`. -/
def Obligations.OramWindow : Prop :=
  (∀ (s : State) (j : Nat), j < 8 * s.params.nslot →
    (hostRead s (0x800 + 4 * j)).toNat = (readByte s.oram (4 * j)).toNat + (readByte s.oram (4 * j + 1)).toNat * 2 ^ 8 +
      (readByte s.oram (4 * j + 2)).toNat * 2 ^ 16 + (readByte s.oram (4 * j + 3)).toNat * 2 ^ 24) ∧
  (∀ (s : State) (j : Nat) (w : Word) (es : List BusEvent), s.bus = .write (0x800 + 4 * j) w :: es →
    j < 8 * s.params.nslot → s.resetIn = false → Memory.wf s.oram = true →
      ∃ m : Memory, step s = .next { s with bus := es, oram := m } ∧ Memory.wf m = true ∧
        (∀ i < 4, readByte m (4 * j + i) = BitVec.ofNat 8 (w.toNat / 2 ^ (8 * i))) ∧
        ∀ a, (a < 4 * j ∨ 4 * j + 4 ≤ a) → readByte m a = readByte s.oram a) ∧
  ∀ (s : State) (k : Nat) (ws : List Word) (es : List BusEvent), ws.length = 8 → k < s.params.nslot →
    s.bus = (List.range 8).map (fun j => BusEvent.write (0x800 + 32 * k + 4 * j) (ws.getD j 0)) ++ es →
    s.resetIn = false → Memory.wf s.oram = true →
      ∃ t, runSteps 8 s = some t ∧ t.bus = es ∧
        le (memRead t.oram (32 * k) 32) = ws.foldr (fun w n => w.toNat + 2 ^ 32 * n) 0

end
end

