-- ==== Sys2Proof/Laws/Datapath.lean ====
section
/-! SUPPORT. The field datapath, function by function: what each returns in GF(p), and its limb bound (41_field.md
R152 to R166). Strict evaluation means nothing (Machine/Field.lean). -/
namespace Sys2Proof.Machine

/-! ### Strict evaluation -/

@[simp] theorem strictNat_eq {α : Type} (n : Nat) (k : Nat → α) : strictNat n k = k n := by
  cases n <;> rfl

theorem Fe.ofLimbs_toNat (x : Fe) :
    Fe.ofLimbs x.l0.toNat x.l1.toNat x.l2.toNat x.l3.toNat x.l4.toNat = x := by
  simp [Fe.ofLimbs]

@[simp] theorem strictFe_eq {α : Type} (x : Fe) (k : Fe → α) : strictFe x k = k x := by
  simp [strictFe, Fe.ofLimbs_toNat]

@[simp] theorem strictExt_eq {α : Type} (e : Ext) (k : Ext → α) : strictExt e k = k e := by simp [strictExt]
@[simp] theorem strictProj_eq {α : Type} (e : Proj) (k : Proj → α) : strictProj e k = k e := by simp [strictProj]
@[simp] theorem strictCompl_eq {α : Type} (e : Compl) (k : Compl → α) : strictCompl e k = k e := by
  simp [strictCompl]
@[simp] theorem strictPN_eq {α : Type} (n : PNiels) (k : PNiels → α) : strictPN n k = k n := by simp [strictPN]

/-! ### Limbs -/

theorem and_M51 (n : Nat) : n &&& M51 = n % 2 ^ 51 := Nat.and_two_pow_sub_one_eq_mod n 51

/-- The limbs of `Fe.ofLimbs`, narrowed to 64 bits. -/
theorem Fe.ofLimbs_limbs (n0 n1 n2 n3 n4 : Nat) :
    (Fe.ofLimbs n0 n1 n2 n3 n4).l0.toNat = n0 % 2 ^ 64 ∧ (Fe.ofLimbs n0 n1 n2 n3 n4).l1.toNat = n1 % 2 ^ 64 ∧
    (Fe.ofLimbs n0 n1 n2 n3 n4).l2.toNat = n2 % 2 ^ 64 ∧ (Fe.ofLimbs n0 n1 n2 n3 n4).l3.toNat = n3 % 2 ^ 64 ∧
    (Fe.ofLimbs n0 n1 n2 n3 n4).l4.toNat = n4 % 2 ^ 64 := by
  simp [Fe.ofLimbs]

/-- The integer of `Fe.ofLimbs`, for limbs that fit their registers. -/
theorem Fe.ofLimbs_limbSum (n0 n1 n2 n3 n4 : Nat) (h0 : n0 < 2 ^ 64) (h1 : n1 < 2 ^ 64) (h2 : n2 < 2 ^ 64)
    (h3 : n3 < 2 ^ 64) (h4 : n4 < 2 ^ 64) :
    (Fe.ofLimbs n0 n1 n2 n3 n4).limbSum =
      n0 + n1 * 2 ^ 51 + n2 * 2 ^ 102 + n3 * 2 ^ 153 + n4 * 2 ^ 204 := by
  obtain ⟨e0, e1, e2, e3, e4⟩ := Fe.ofLimbs_limbs n0 n1 n2 n3 n4
  simp only [Fe.limbSum, e0, e1, e2, e3, e4, Nat.mod_eq_of_lt, h0, h1, h2, h3, h4]

theorem Fe.below_ofLimbs (n n0 n1 n2 n3 n4 : Nat) (h0 : n0 < 2 ^ n) (h1 : n1 < 2 ^ n) (h2 : n2 < 2 ^ n)
    (h3 : n3 < 2 ^ n) (h4 : n4 < 2 ^ n) : (Fe.ofLimbs n0 n1 n2 n3 n4).Below n := by
  obtain ⟨e0, e1, e2, e3, e4⟩ := Fe.ofLimbs_limbs n0 n1 n2 n3 n4
  refine ⟨?_, ?_, ?_, ?_, ?_⟩ <;>
    first
      | (rw [e0]; exact (Nat.mod_le ..).trans_lt h0)
      | (rw [e1]; exact (Nat.mod_le ..).trans_lt h1)
      | (rw [e2]; exact (Nat.mod_le ..).trans_lt h2)
      | (rw [e3]; exact (Nat.mod_le ..).trans_lt h3)
      | (rw [e4]; exact (Nat.mod_le ..).trans_lt h4)

theorem Fe.Below.mono {m n : Nat} {x : Fe} (h : x.Below m) (hmn : m ≤ n) : x.Below n := by
  have hp : 2 ^ m ≤ 2 ^ n := Nat.pow_le_pow_right (by decide) hmn
  obtain ⟨h0, h1, h2, h3, h4⟩ := h
  exact ⟨h0.trans_le hp, h1.trans_le hp, h2.trans_le hp, h3.trans_le hp, h4.trans_le hp⟩

/-- The value of a limb vector in GF(p) is that of its integer. -/
theorem Fe.gf_eq (x : Fe) : x.gf = (x.limbSum : GF) := by
  rw [Fe.gf, Fe.fval, ZMod.natCast_mod]

/-- In GF(p), 2^255 is 19. -/
theorem gf_two_pow_255 : (2 : GF) ^ 255 = 19 := by
  have h : ((2 ^ 255 : Nat) : GF) = ((p + 19 : Nat) : GF) := congrArg _ (by decide)
  rw [Nat.cast_add, ZMod.natCast_self, zero_add] at h
  exact_mod_cast h

/-! ### `fe_weak` and the operations that end in it -/

theorem feWeak_limbSum (x : Fe) :
    (feWeak x).limbSum + x.l4.toNat / 2 ^ 51 * p = x.limbSum := by
  have h0 := x.l0.isLt
  have h1 := x.l1.isLt
  have h2 := x.l2.isLt
  have h3 := x.l3.isLt
  have h4 := x.l4.isLt
  simp only [feWeak, and_M51, Nat.shiftRight_eq_div_pow]
  rw [Fe.ofLimbs_limbSum _ _ _ _ _ (by omega) (by omega) (by omega) (by omega) (by omega)]
  simp only [Fe.limbSum, p]
  omega

/-- `fe_weak` keeps the value (R152). -/
theorem feWeak_gf (x : Fe) : (feWeak x).gf = x.gf := by
  rw [Fe.gf_eq, Fe.gf_eq, ← feWeak_limbSum x]
  push_cast
  simp

/-- `fe_weak` leaves every limb below 2^52 (R152). -/
theorem feWeak_below (x : Fe) : (feWeak x).Below 52 := by
  have h0 := x.l0.isLt
  have h1 := x.l1.isLt
  have h2 := x.l2.isLt
  have h3 := x.l3.isLt
  have h4 := x.l4.isLt
  simp only [feWeak, and_M51, Nat.shiftRight_eq_div_pow]
  exact Fe.below_ofLimbs _ _ _ _ _ _ (by omega) (by omega) (by omega) (by omega) (by omega)

/-- `fe_add` (R153). -/
theorem feAdd_gf (a b : Fe) (ha : a.Below 54) (hb : b.Below 54) : (feAdd a b).gf = a.gf + b.gf := by
  obtain ⟨a0, a1, a2, a3, a4⟩ := ha
  obtain ⟨b0, b1, b2, b3, b4⟩ := hb
  rw [feAdd, feWeak_gf, Fe.gf_eq, Fe.gf_eq, Fe.gf_eq, Fe.ofLimbs_limbSum _ _ _ _ _ (by omega) (by omega) (by omega)
    (by omega) (by omega)]
  simp only [Fe.limbSum]
  push_cast
  ring

theorem feAdd_below (a b : Fe) : (feAdd a b).Below 52 := feWeak_below _

theorem sub64_eq (x y : Nat) (hy : y ≤ x) (hx : x < 2 ^ 64) : sub64 x y = x - y := by
  unfold sub64
  omega

/-- `fe_sub` (R154). -/
theorem feSub_gf (a b : Fe) (ha : a.Below 54) (hb : b.Below 54) : (feSub a b).gf = a.gf - b.gf := by
  obtain ⟨a0, a1, a2, a3, a4⟩ := ha
  obtain ⟨b0, b1, b2, b3, b4⟩ := hb
  have hlo : P16lo = 36028797018963664 := rfl
  have hhi : P16hi = 36028797018963952 := rfl
  rw [feSub, feWeak_gf, Fe.gf_eq, Fe.gf_eq, Fe.gf_eq]
  simp only [hlo, hhi]
  rw [sub64_eq _ _ (by omega) (by omega), sub64_eq _ _ (by omega) (by omega), sub64_eq _ _ (by omega) (by omega),
    sub64_eq _ _ (by omega) (by omega), sub64_eq _ _ (by omega) (by omega),
    Fe.ofLimbs_limbSum _ _ _ _ _ (by omega) (by omega) (by omega) (by omega) (by omega), eq_sub_iff_add_eq,
    ← Nat.cast_add]
  have h : a.l0.toNat + 36028797018963664 - b.l0.toNat + (a.l1.toNat + 36028797018963952 - b.l1.toNat) * 2 ^ 51 +
      (a.l2.toNat + 36028797018963952 - b.l2.toNat) * 2 ^ 102 +
      (a.l3.toNat + 36028797018963952 - b.l3.toNat) * 2 ^ 153 +
      (a.l4.toNat + 36028797018963952 - b.l4.toNat) * 2 ^ 204 + b.limbSum = a.limbSum + 16 * p := by
    simp only [Fe.limbSum, p]
    omega
  rw [h]
  push_cast
  simp

theorem feSub_below (a b : Fe) : (feSub a b).Below 52 := feWeak_below _

/-- `fe_neg` (R155). -/
theorem feNeg_gf (a : Fe) (ha : a.Below 54) : (feNeg a).gf = -a.gf := by
  obtain ⟨a0, a1, a2, a3, a4⟩ := ha
  have hlo : P16lo = 36028797018963664 := rfl
  have hhi : P16hi = 36028797018963952 := rfl
  rw [feNeg, feWeak_gf, Fe.gf_eq, Fe.gf_eq]
  simp only [hlo, hhi]
  rw [sub64_eq _ _ (by omega) (by omega), sub64_eq _ _ (by omega) (by omega), sub64_eq _ _ (by omega) (by omega),
    sub64_eq _ _ (by omega) (by omega), sub64_eq _ _ (by omega) (by omega),
    Fe.ofLimbs_limbSum _ _ _ _ _ (by omega) (by omega) (by omega) (by omega) (by omega), eq_neg_iff_add_eq_zero,
    ← Nat.cast_add]
  have h : 36028797018963664 - a.l0.toNat + (36028797018963952 - a.l1.toNat) * 2 ^ 51 +
      (36028797018963952 - a.l2.toNat) * 2 ^ 102 + (36028797018963952 - a.l3.toNat) * 2 ^ 153 +
      (36028797018963952 - a.l4.toNat) * 2 ^ 204 + a.limbSum = 16 * p := by
    simp only [Fe.limbSum, p]
    omega
  rw [h]
  push_cast
  simp

theorem feNeg_below (a : Fe) : (feNeg a).Below 52 := feWeak_below _

/-! ### `fe_mul` -/

/-- The carry chain keeps the value of its columns and bounds its limbs (R156). -/
theorem feCarry_limbSum (c0 c1 c2 c3 c4 : Nat) (h0 : c0 < 2 ^ 116) (h1 : c1 < 2 ^ 116) (h2 : c2 < 2 ^ 116)
    (h3 : c3 < 2 ^ 116) (h4 : c4 < 2 ^ 108 * 6) :
    ∃ k, (feCarry c0 c1 c2 c3 c4).limbSum + k * p =
      c0 + c1 * 2 ^ 51 + c2 * 2 ^ 102 + c3 * 2 ^ 153 + c4 * 2 ^ 204 := by
  simp only [feCarry, and_M51, Nat.shiftRight_eq_div_pow]
  have e1 : u128 (c1 + c0 / 2 ^ 51) = c1 + c0 / 2 ^ 51 := Nat.mod_eq_of_lt (by omega)
  rw [e1]
  generalize hd1 : c1 + c0 / 2 ^ 51 = d1
  have e2 : u128 (c2 + d1 / 2 ^ 51) = c2 + d1 / 2 ^ 51 := Nat.mod_eq_of_lt (by omega)
  rw [e2]
  generalize hd2 : c2 + d1 / 2 ^ 51 = d2
  have e3 : u128 (c3 + d2 / 2 ^ 51) = c3 + d2 / 2 ^ 51 := Nat.mod_eq_of_lt (by omega)
  rw [e3]
  generalize hd3 : c3 + d2 / 2 ^ 51 = d3
  have e4 : u128 (c4 + d3 / 2 ^ 51) = c4 + d3 / 2 ^ 51 := Nat.mod_eq_of_lt (by omega)
  rw [e4]
  generalize hd4 : c4 + d3 / 2 ^ 51 = d4
  have e5 : u64 (d4 / 2 ^ 51) = d4 / 2 ^ 51 := Nat.mod_eq_of_lt (by omega)
  rw [e5]
  have e6 : u64 (c0 % 2 ^ 51 + 19 * (d4 / 2 ^ 51)) = c0 % 2 ^ 51 + 19 * (d4 / 2 ^ 51) :=
    Nat.mod_eq_of_lt (by omega)
  rw [e6]
  generalize hf0 : c0 % 2 ^ 51 + 19 * (d4 / 2 ^ 51) = f0
  have e7 : u64 (d1 % 2 ^ 51 + f0 / 2 ^ 51) = d1 % 2 ^ 51 + f0 / 2 ^ 51 := Nat.mod_eq_of_lt (by omega)
  rw [e7]
  refine ⟨d4 / 2 ^ 51, ?_⟩
  rw [Fe.ofLimbs_limbSum _ _ _ _ _ (by omega) (by omega) (by omega) (by omega) (by omega)]
  simp only [p]
  omega

theorem feCarry_below (c0 c1 c2 c3 c4 : Nat) : (feCarry c0 c1 c2 c3 c4).Below 52 := by
  simp only [feCarry, and_M51, Nat.shiftRight_eq_div_pow]
  generalize u128 (c1 + c0 / 2 ^ 51) = d1
  generalize u128 (c2 + d1 / 2 ^ 51) = d2
  generalize u128 (c3 + d2 / 2 ^ 51) = d3
  generalize u128 (c4 + d3 / 2 ^ 51) = d4
  have h : u64 (c0 % 2 ^ 51 + 19 * u64 (d4 / 2 ^ 51)) < 2 ^ 64 := Nat.mod_lt _ (by decide)
  generalize u64 (c0 % 2 ^ 51 + 19 * u64 (d4 / 2 ^ 51)) = f0 at h
  have h' : u64 (d1 % 2 ^ 51 + f0 / 2 ^ 51) ≤ d1 % 2 ^ 51 + f0 / 2 ^ 51 := Nat.mod_le ..
  exact Fe.below_ofLimbs _ _ _ _ _ _ (by omega) (by omega) (by omega) (by omega) (by omega)

theorem mul_lt_two_pow {a b m n : Nat} (ha : a < 2 ^ m) (hb : b < 2 ^ n) : a * b < 2 ^ (m + n) := by
  rw [pow_add]
  exact Nat.mul_lt_mul'' ha hb

/-- `fe_mul` (R156). -/
theorem feMul_gf (a b : Fe) (ha : a.Below 54) (hb : b.Below 54) : (feMul a b).gf = a.gf * b.gf := by
  obtain ⟨a0, a1, a2, a3, a4⟩ := ha
  obtain ⟨b0, b1, b2, b3, b4⟩ := hb
  have m {x y : Nat} (hx : x < 2 ^ 54) (hy : y < 2 ^ 54) : x * y < 2 ^ 108 := mul_lt_two_pow hx hy
  have m' {x y : Nat} (hx : x < 2 ^ 54) (hy : y < 2 ^ 54) : x * (19 * y) < 2 ^ 108 * 19 := by
    rw [Nat.mul_left_comm, Nat.mul_comm]
    exact Nat.mul_lt_mul_of_pos_right (mul_lt_two_pow hx hy) (by decide)
  have u {y : Nat} (hy : y < 2 ^ 54) : u64 (19 * y) = 19 * y := Nat.mod_eq_of_lt (by omega)
  have v {x : Nat} (hx : x < 2 ^ 116) : u128 x = x := Nat.mod_eq_of_lt (by omega)
  have p00 := m a0 b0
  have p41 := m' a4 b1
  have p32 := m' a3 b2
  have p23 := m' a2 b3
  have p14 := m' a1 b4
  have p10 := m a1 b0
  have p01 := m a0 b1
  have p42 := m' a4 b2
  have p33 := m' a3 b3
  have p24 := m' a2 b4
  have p20 := m a2 b0
  have p11 := m a1 b1
  have p02 := m a0 b2
  have p43 := m' a4 b3
  have p34 := m' a3 b4
  have p30 := m a3 b0
  have p21 := m a2 b1
  have p12 := m a1 b2
  have p03 := m a0 b3
  have p44 := m' a4 b4
  have p40 := m a4 b0
  have p31 := m a3 b1
  have p22 := m a2 b2
  have p13 := m a1 b3
  have p04 := m a0 b4
  simp only [feMul, u b1, u b2, u b3, u b4]
  rw [v (by omega), v (by omega), v (by omega), v (by omega), v (by omega)]
  obtain ⟨k, hk⟩ := feCarry_limbSum
    (a.l0.toNat * b.l0.toNat + a.l4.toNat * (19 * b.l1.toNat) + a.l3.toNat * (19 * b.l2.toNat) +
      a.l2.toNat * (19 * b.l3.toNat) + a.l1.toNat * (19 * b.l4.toNat))
    (a.l1.toNat * b.l0.toNat + a.l0.toNat * b.l1.toNat + a.l4.toNat * (19 * b.l2.toNat) +
      a.l3.toNat * (19 * b.l3.toNat) + a.l2.toNat * (19 * b.l4.toNat))
    (a.l2.toNat * b.l0.toNat + a.l1.toNat * b.l1.toNat + a.l0.toNat * b.l2.toNat +
      a.l4.toNat * (19 * b.l3.toNat) + a.l3.toNat * (19 * b.l4.toNat))
    (a.l3.toNat * b.l0.toNat + a.l2.toNat * b.l1.toNat + a.l1.toNat * b.l2.toNat +
      a.l0.toNat * b.l3.toNat + a.l4.toNat * (19 * b.l4.toNat))
    (a.l4.toNat * b.l0.toNat + a.l3.toNat * b.l1.toNat + a.l2.toNat * b.l2.toNat +
      a.l1.toNat * b.l3.toNat + a.l0.toNat * b.l4.toNat)
    (by omega) (by omega) (by omega) (by omega) (by omega)
  have hk' := congrArg (Nat.cast : Nat → GF) hk
  push_cast at hk'
  rw [ZMod.natCast_self, mul_zero, add_zero] at hk'
  rw [Fe.gf_eq, hk', Fe.gf_eq, Fe.gf_eq]
  simp only [Fe.limbSum]
  push_cast
  linear_combination (-(a.l4.toNat * b.l1.toNat + a.l3.toNat * b.l2.toNat + a.l2.toNat * b.l3.toNat +
      a.l1.toNat * b.l4.toNat : GF) - (a.l4.toNat * b.l2.toNat + a.l3.toNat * b.l3.toNat +
      a.l2.toNat * b.l4.toNat : GF) * 2 ^ 51 - (a.l4.toNat * b.l3.toNat + a.l3.toNat * b.l4.toNat : GF) * 2 ^ 102 -
      (a.l4.toNat * b.l4.toNat : GF) * 2 ^ 153) * gf_two_pow_255

theorem feMul_below (a b : Fe) : (feMul a b).Below 52 := feCarry_below ..

/-! ### Squarings and powers -/

/-- `fe_sq` (R157). -/
theorem feSq_gf (a : Fe) (ha : a.Below 54) : (feSq a).gf = a.gf ^ 2 := by
  rw [feSq, feMul_gf a a ha ha, sq]

theorem feSq_below (a : Fe) : (feSq a).Below 52 := feMul_below a a

/-- `fe_sq2` (R157). -/
theorem feSq2_gf (a : Fe) (ha : a.Below 54) : (feSq2 a).gf = 2 * a.gf ^ 2 := by
  obtain ⟨h0, h1, h2, h3, h4⟩ := feSq_below a
  rw [← feSq_gf a ha, feSq2, Fe.gf_eq, Fe.gf_eq, Fe.ofLimbs_limbSum _ _ _ _ _ (by omega) (by omega) (by omega)
    (by omega) (by omega)]
  simp only [Fe.limbSum]
  push_cast
  ring

theorem feSq2_below (a : Fe) : (feSq2 a).Below 53 := by
  obtain ⟨h0, h1, h2, h3, h4⟩ := feSq_below a
  exact Fe.below_ofLimbs _ _ _ _ _ _ (by omega) (by omega) (by omega) (by omega) (by omega)

theorem fePow2k_below (a : Fe) (k : Nat) (h : a.Below 54) : (fePow2k a k).Below 54 := by
  induction k generalizing a with
  | zero => exact h
  | succ k ih =>
    rw [fePow2k, strictFe_eq]
    exact ih _ ((feSq_below a).mono (by decide))

/-- `fe_pow2k` (R157). -/
theorem fePow2k_gf (a : Fe) (k : Nat) (h : a.Below 54) : (fePow2k a k).gf = a.gf ^ 2 ^ k := by
  induction k generalizing a with
  | zero => simp [fePow2k]
  | succ k ih =>
    rw [fePow2k, strictFe_eq, ih _ ((feSq_below a).mono (by decide)), feSq_gf a h, ← pow_mul, pow_succ, mul_comm]

/-- A limb vector with loose limbs and a given value: what the lemmas below say of a datapath result. -/
def Fe.Is (x : Fe) (v : GF) : Prop := x.Below 54 ∧ x.gf = v

theorem Fe.is_self {x : Fe} (h : x.Below 54) : x.Is x.gf := ⟨h, rfl⟩

theorem feMul_is {a b : Fe} {u v : GF} (ha : a.Is u) (hb : b.Is v) : (feMul a b).Is (u * v) :=
  ⟨(feMul_below a b).mono (by decide), by rw [feMul_gf a b ha.1 hb.1, ha.2, hb.2]⟩

theorem feSq_is {a : Fe} {u : GF} (ha : a.Is u) : (feSq a).Is (u ^ 2) :=
  ⟨(feSq_below a).mono (by decide), by rw [feSq_gf a ha.1, ha.2]⟩

theorem fePow2k_is {a : Fe} {u : GF} (k : Nat) (ha : a.Is u) : (fePow2k a k).Is (u ^ 2 ^ k) :=
  ⟨fePow2k_below a k ha.1, by rw [fePow2k_gf a k ha.1, ha.2]⟩

theorem Fe.Is.pow {x : Fe} {v : GF} {m n : Nat} (h : x.Is (v ^ m)) (e : m = n) : x.Is (v ^ n) := e ▸ h

theorem feMul_pow {a b : Fe} {v : GF} {m n : Nat} (ha : a.Is (v ^ m)) (hb : b.Is (v ^ n)) :
    (feMul a b).Is (v ^ (m + n)) := pow_add v m n ▸ feMul_is ha hb

theorem feSq_pow {a : Fe} {v : GF} {m : Nat} (ha : a.Is (v ^ m)) : (feSq a).Is (v ^ (m * 2)) :=
  pow_mul v m 2 ▸ feSq_is ha

theorem fePow2k_pow {a : Fe} {v : GF} {m : Nat} (k : Nat) (ha : a.Is (v ^ m)) :
    (fePow2k a k).Is (v ^ (m * 2 ^ k)) := pow_mul v m (2 ^ k) ▸ fePow2k_is k ha

/-- `fe_pow22501` (R161). -/
theorem fePow22501_is (x : Fe) (h : x.Below 54) :
    (fePow22501 x).1.Is (x.gf ^ (2 ^ 250 - 1)) ∧ (fePow22501 x).2.Is (x.gf ^ 11) := by
  simp only [fePow22501, strictFe_eq]
  have h1 : x.Is (x.gf ^ 1) := ⟨h, (pow_one _).symm⟩
  have t0 := feSq_pow h1
  have t1 := feSq_pow (feSq_pow t0)
  have t2 := feMul_pow h1 t1
  have t3 := feMul_pow t0 t2
  have t4 := feSq_pow t3
  have t5 := feMul_pow t2 t4
  have t6 := fePow2k_pow 5 t5
  have t7 := feMul_pow t6 t5
  have t8 := fePow2k_pow 10 t7
  have t9 := feMul_pow t8 t7
  have t10 := fePow2k_pow 20 t9
  have t11 := feMul_pow t10 t9
  have t12 := fePow2k_pow 10 t11
  have t13 := feMul_pow t12 t7
  have t14 := fePow2k_pow 50 t13
  have t15 := feMul_pow t14 t13
  have t16 := fePow2k_pow 100 t15
  have t17 := feMul_pow t16 t15
  have t18 := fePow2k_pow 50 t17
  have t19 := feMul_pow t18 t13
  exact ⟨t19.pow (by norm_num), t3.pow (by norm_num)⟩

/-- `fe_invert` (R162). -/
theorem feInvert_is (x : Fe) (h : x.Below 54) : (feInvert x).Is (x.gf ^ (p - 2)) :=
  (feMul_pow (fePow2k_pow 5 (fePow22501_is x h).1) (fePow22501_is x h).2).pow (by norm_num [p])

/-- `fe_pow_p58` (R162). -/
theorem fePowP58_is (x : Fe) (h : x.Below 54) : (fePowP58 x).Is (x.gf ^ (2 ^ 252 - 3)) :=
  (feMul_pow ⟨h, (pow_one _).symm⟩ (fePow2k_pow 2 (fePow22501_is x h).1)).pow (by norm_num)

end Sys2Proof.Machine
end

