-- ==== Sys2Proof/Laws/Memory.lean ====
section
/-! SUPPORT. The laws of the operand memory: a read after a write, and that every operation keeps the canonical form
(20_memory.md R72, R73). -/
namespace Sys2Proof.Machine

/-- The canonical form, cell by cell. -/
theorem Memory.wf_cons (k : Nat) (v : Byte) (m : Memory) :
    Memory.wf ((k, v) :: m) = true ↔ v ≠ unlisted ∧ (∀ c ∈ m, k < c.1) ∧ Memory.wf m = true := by
  induction m generalizing k v with
  | nil => simp [Memory.wf]
  | cons c m ih =>
    obtain ⟨k', v'⟩ := c
    simp only [Memory.wf, decide_eq_true_eq, List.forall_mem_cons]
    constructor
    · rintro ⟨h, hk, hm⟩
      exact ⟨h, ⟨hk, fun c hc => lt_trans hk (((ih k' v').1 hm).2.1 c hc)⟩, hm⟩
    · rintro ⟨h, ⟨hk, -⟩, hm⟩
      exact ⟨h, hk, hm⟩

/-- A memory all of whose addresses lie above an address reads as an unlisted byte there. -/
theorem readByte_of_lt (m : Memory) (a : Nat) (h : ∀ c ∈ m, a < c.1) : readByte m a = unlisted := by
  induction m with
  | nil => rfl
  | cons c m ih =>
    obtain ⟨k, v⟩ := c
    have hk : a < k := h _ (List.mem_cons_self ..)
    rw [readByte, if_neg (by omega), ih fun c hc => h c (List.mem_cons_of_mem _ hc)]

theorem readByte_consCell_self (m : Memory) (a : Nat) (b : Byte) (h : ∀ c ∈ m, a < c.1) :
    readByte (consCell a b m) a = b := by
  unfold consCell
  split
  · next hb => rw [readByte_of_lt m a h, hb]
  · simp [readByte]

theorem readByte_consCell_ne (m : Memory) (a x : Nat) (b : Byte) (h : x ≠ a) :
    readByte (consCell a b m) x = readByte m x := by
  unfold consCell
  split
  · rfl
  · rw [readByte, if_neg (Ne.symm h)]

/-- A write leaves every other byte alone (20_memory.md R73). -/
theorem readByte_writeByte_ne (m : Memory) (a x : Nat) (b : Byte) (h : x ≠ a) :
    readByte (writeByte m a b) x = readByte m x := by
  induction m with
  | nil => rw [writeByte, readByte_consCell_ne _ _ _ _ h]
  | cons c m ih =>
    obtain ⟨k, v⟩ := c
    rw [writeByte]
    split
    · rw [readByte, readByte, ih]
    · split
      · next hk => rw [readByte_consCell_ne _ _ _ _ h, readByte, if_neg (by omega)]
      · rw [readByte_consCell_ne _ _ _ _ h]

/-- A read after a write of the same byte gives the byte written (20_memory.md R72, R73). -/
theorem readByte_writeByte_self (m : Memory) (a : Nat) (b : Byte) (h : Memory.wf m = true) :
    readByte (writeByte m a b) a = b := by
  induction m with
  | nil => exact readByte_consCell_self [] a b (by simp)
  | cons c m ih =>
    obtain ⟨k, v⟩ := c
    obtain ⟨-, hk, hm⟩ := (Memory.wf_cons k v m).1 h
    rw [writeByte]
    split
    · rw [readByte, if_neg (by omega), ih hm]
    · split
      · next _ e => exact readByte_consCell_self m a b fun c hc => e ▸ hk c hc
      · refine readByte_consCell_self _ a b fun c hc => ?_
        rcases List.mem_cons.1 hc with rfl | hc
        · show a < k
          omega
        · have := hk c hc
          omega

theorem mem_consCell (m : Memory) (a : Nat) (b : Byte) (c : Host.Cell) (h : c ∈ consCell a b m) :
    c = (a, b) ∨ c ∈ m := by
  unfold consCell at h
  split at h
  · exact Or.inr h
  · exact List.mem_cons.1 h

/-- A cell after a write is the one written or an old one. -/
theorem mem_writeByte (m : Memory) (a : Nat) (b : Byte) (c : Host.Cell) (h : c ∈ writeByte m a b) :
    c = (a, b) ∨ c ∈ m := by
  induction m with
  | nil => exact mem_consCell [] a b c h
  | cons d m ih =>
    obtain ⟨k, v⟩ := d
    rw [writeByte] at h
    split at h
    · rcases List.mem_cons.1 h with h | h
      · exact Or.inr (h ▸ List.mem_cons_self ..)
      · exact (ih h).imp_right (List.mem_cons_of_mem _)
    · split at h
      · exact (mem_consCell m a b c h).imp_right (List.mem_cons_of_mem _)
      · exact mem_consCell _ a b c h

theorem Memory.wf_consCell (m : Memory) (a : Nat) (b : Byte) (hm : Memory.wf m = true) (h : ∀ c ∈ m, a < c.1) :
    Memory.wf (consCell a b m) = true := by
  unfold consCell
  split
  · exact hm
  · next hb => exact (Memory.wf_cons a b m).2 ⟨hb, h, hm⟩

/-- A write of one byte keeps the canonical form. -/
theorem Memory.wf_writeByte (m : Memory) (a : Nat) (b : Byte) (h : Memory.wf m = true) :
    Memory.wf (writeByte m a b) = true := by
  induction m with
  | nil => exact Memory.wf_consCell [] a b rfl (by simp)
  | cons c m ih =>
    obtain ⟨k, v⟩ := c
    obtain ⟨hv, hk, hm⟩ := (Memory.wf_cons k v m).1 h
    rw [writeByte]
    split
    · next hka =>
      refine (Memory.wf_cons k v _).2 ⟨hv, fun c hc => ?_, ih hm⟩
      rcases mem_writeByte m a b c hc with rfl | hc
      · exact hka
      · exact hk c hc
    · split
      · next e => exact Memory.wf_consCell m a b hm fun c hc => e ▸ hk c hc
      · refine Memory.wf_consCell _ a b h fun c hc => ?_
        rcases List.mem_cons.1 hc with rfl | hc
        · show a < k
          omega
        · have := hk c hc
          omega

/-- A write of a byte string keeps the canonical form. -/
theorem Memory.wf_memWrite (m : Memory) (a : Nat) (bs : List Byte) (h : Memory.wf m = true) :
    Memory.wf (memWrite m a bs) = true := by
  induction bs generalizing m a with
  | nil => exact h
  | cons b bs ih => exact ih _ _ (Memory.wf_writeByte m a b h)

/-- A write of a byte string changes no byte outside it (20_memory.md R73). -/
theorem readByte_memWrite_outside (m : Memory) (a x : Nat) (bs : List Byte) (h : x < a ∨ a + bs.length ≤ x) :
    readByte (memWrite m a bs) x = readByte m x := by
  induction bs generalizing m a with
  | nil => rfl
  | cons b bs ih =>
    simp only [List.length_cons] at h
    rw [memWrite, ih _ _ (by omega), readByte_writeByte_ne _ _ _ _ (by omega)]

/-- A write of a byte string puts its bytes in order (20_memory.md R73). -/
theorem readByte_memWrite_inside (m : Memory) (a i : Nat) (bs : List Byte) (hm : Memory.wf m = true)
    (h : i < bs.length) : readByte (memWrite m a bs) (a + i) = bs[i] := by
  induction bs generalizing m a i with
  | nil => simp at h
  | cons b bs ih =>
    rw [memWrite]
    cases i with
    | zero =>
      rw [readByte_memWrite_outside _ _ _ _ (by omega)]
      exact readByte_writeByte_self m a b hm
    | succ i =>
      rw [show a + (i + 1) = (a + 1) + i by omega,
        ih _ _ _ (Memory.wf_writeByte m a b hm) (by simpa using h)]
      rfl

/-- Every cell after a write is an old one or lies in the bytes written. -/
theorem mem_memWrite (m : Memory) (a : Nat) (bs : List Byte) (c : Host.Cell) (h : c ∈ memWrite m a bs) :
    c ∈ m ∨ a ≤ c.1 ∧ c.1 < a + bs.length := by
  induction bs generalizing m a with
  | nil => exact Or.inl h
  | cons b bs ih =>
    rcases ih _ _ h with h | h
    · rcases mem_writeByte m a b c h with rfl | h
      · exact Or.inr (by simp)
      · exact Or.inl h
    · exact Or.inr (by simp only [List.length_cons]; omega)

@[simp] theorem memRead_length (m : Memory) (a n : Nat) : (memRead m a n).length = n := by
  induction n generalizing a with
  | zero => rfl
  | succ n ih => simp [memRead, ih]

/-- The bytes of a read, one by one (20_memory.md R72). -/
theorem memRead_getElem (m : Memory) (a n i : Nat) (h : i < (memRead m a n).length) :
    (memRead m a n)[i] = readByte m (a + i) := by
  induction n generalizing a i with
  | zero => simp [memRead] at h
  | succ n ih =>
    cases i with
    | zero => rfl
    | succ i =>
      show (memRead m (a + 1) n)[i]'(by simpa [memRead] using h) = _
      rw [ih, show a + 1 + i = a + (i + 1) by omega]

/-- The memory after reset has the canonical form (10_state.md R58). -/
theorem State.reset_memory_wf : Memory.wf State.reset.oram = true := rfl

end Sys2Proof.Machine
end

