-- ==== Sys2Proof/Laws/Ops.lean ====
section
/-! SUPPORT. What the shared operations can do, each said once: a command (40_system_choice.md R130), a source
(60_exceptions.md R404), a write to CMD (10_state.md R48), a bus event and a step. -/
namespace Sys2Proof.Machine

/-! ### Bodies of commands -/

theorem bind_ok_iff {ε α β : Type} (x : Except ε α) (f : α → Except ε β) (b : β) :
    (x >>= f) = .ok b ↔ ∃ a, x = .ok a ∧ f a = .ok b := by
  cases x <;> simp [bind, Except.bind]

theorem bind_error_iff {ε α β : Type} (x : Except ε α) (f : α → Except ε β) (k : ε) :
    (x >>= f) = .error k ↔ x = .error k ∨ ∃ a, x = .ok a ∧ f a = .error k := by
  cases x <;> simp [bind, Except.bind]

/-- A source answers the content of its register, or UNWRITTEN where it is EMPTY (60_exceptions.md R404). -/
theorem source_ok_iff {α : Type} (o : Option α) (v : α) : source o = .ok v ↔ o = some v := by
  cases o <;> simp [source]

theorem source_error_iff {α : Type} (o : Option α) (k : FaultCode) :
    source o = .error k ↔ o = none ∧ k = .unwritten := by
  cases o <;> simp [source, eq_comm]

/-! ### Commands -/

/-- A command always answers a next state (70_reset_and_hazards.md R448). -/
theorem command_next (i : Instr) (s : State) (body : Except FaultCode State) :
    ∃ t, command i s body = .next t := by
  unfold command
  split
  · exact ⟨_, rfl⟩
  · split <;> exact ⟨_, rfl⟩

/-- Everything a command can do: it fails a check, it faults, or it retires (40_system_choice.md R130). -/
theorem command_cases {i : Instr} {s t : State} {body : Except FaultCode State} (h : command i s body = .next t) :
    (∃ k, i.check s.params = some k ∧ t = s.takeFault k (encode i)) ∨
    (∃ k, i.check s.params = none ∧ body = .error k ∧ t = s.takeFault k (encode i)) ∨
    ∃ u, i.check s.params = none ∧ body = .ok u ∧ t = u.retire := by
  unfold command at h
  split at h
  · next k hk => exact .inl ⟨k, hk, (Host.Outcome.next.inj h).symm⟩
  · next hk =>
    split at h
    · next u => exact .inr (.inr ⟨u, hk, rfl, (Host.Outcome.next.inj h).symm⟩)
    · next k => exact .inr (.inl ⟨k, hk, rfl, (Host.Outcome.next.inj h).symm⟩)

theorem command_of_check {i : Instr} {s : State} {body : Except FaultCode State} {k : FaultCode}
    (h : i.check s.params = some k) : command i s body = .next (s.takeFault k (encode i)) := by
  simp [command, h]

theorem command_of_ok {i : Instr} {s u : State} (h : i.check s.params = none) :
    command i s (.ok u) = .next u.retire := by
  simp [command, h]

theorem command_of_error {i : Instr} {s : State} {k : FaultCode} (h : i.check s.params = none) :
    command i s (.error k) = .next (s.takeFault k (encode i)) := by
  simp [command, h]

/-! ### CMD, the bus, a step -/

/-- Everything a write to CMD can do (10_state.md R48). -/
theorem acceptWord_cases (w : Word) (s : State) :
    (s.fault = true ∧ acceptWord w s = .next s) ∨
    (s.fault = false ∧ ∃ k, decode s.params w = .error k ∧ acceptWord w s = .next (s.takeFault k w)) ∨
    (s.fault = false ∧ ∃ i, decode s.params w = .ok i ∧ acceptWord w s = exec i s) := by
  unfold acceptWord
  split
  · next h => exact .inl ⟨h, rfl⟩
  · next h =>
    have h : s.fault = false := by simpa using h
    cases hd : decode s.params w with
    | ok i => exact .inr (.inr ⟨h, i, rfl, rfl⟩)
    | error k => exact .inr (.inl ⟨h, k, rfl, rfl⟩)

/-- An access that answers a next state is outside reset, aligned and inside the window, and does what it is for
(20_memory.md R78, R80; 70_reset_and_hazards.md R431). -/
theorem busAccess_next {s t : State} {offset : Nat} {act : Result} (h : busAccess s offset act = .next t) :
    s.resetIn = false ∧ offset % 4 = 0 ∧ offset < windowEnd s.params ∧ act = .next t := by
  unfold busAccess at h
  split at h
  · cases h
  · next hr =>
    split at h
    · cases h
    · next ho =>
      split at h
      · cases h
      · next hw => exact ⟨by simpa using hr, by omega, by omega, h⟩

/-- Everything a step to a next state can be: idle, or one bus event (20_memory.md R81). -/
theorem step_cases {s t : State} (h : step s = .next t) :
    (s.bus = [] ∧ t = s) ∨
    ∃ e es, s.bus = e :: es ∧ busEvent acceptWord e { s with bus := es } = .next t := by
  unfold step nextEvent at h
  split at h
  · next hb => exact .inl ⟨hb, (Host.Outcome.next.inj h).symm⟩
  · next e es hb => exact .inr ⟨e, es, hb, h⟩

/-- Everything a bus event that answers a next state can do. -/
theorem busEvent_cases {e : BusEvent} {s t : State} (h : busEvent acceptWord e s = .next t) :
    (∃ offset, e = .read offset ∧ s.resetIn = false ∧ offset % 4 = 0 ∧ offset < windowEnd s.params ∧
      t = { s with readLog := s.readLog ++ [hostRead s offset] }) ∨
    (∃ w, e = .write cmdOffset w ∧ s.resetIn = false ∧ acceptWord w s = .next t) ∨
    (∃ offset w, e = .write offset w ∧ offset ≠ cmdOffset ∧ s.resetIn = false ∧ offset % 4 = 0 ∧
      offset < windowEnd s.params ∧ t = hostWrite s offset w) ∨
    ∃ a, e = .resetInput a ∧ t = driveReset s a := by
  cases e with
  | read offset =>
    obtain ⟨h1, h2, h3, h4⟩ := busAccess_next h
    exact .inl ⟨offset, rfl, h1, h2, h3, (Host.Outcome.next.inj h4).symm⟩
  | write offset w =>
    obtain ⟨h1, h2, h3, h4⟩ := busAccess_next h
    split at h4
    · next hc => exact .inr (.inl ⟨w, by rw [hc], h1, h4⟩)
    · next hc => exact .inr (.inr (.inl ⟨offset, w, rfl, hc, h1, h2, h3, (Host.Outcome.next.inj h4).symm⟩))
  | otherWidth offset bytes =>
    simp only [busEvent] at h
    split at h <;> cases h
  | resetInput a => exact .inr (.inr (.inr ⟨a, rfl, (Host.Outcome.next.inj h).symm⟩))

end Sys2Proof.Machine
end

