-- ==== Sys2Proof/Laws/PerInstr.lean ====
section
/-! SUPPORT. The family EncodedRow: the word of a command has the opcode and the match bits of its row of 30_encoding.md
R107, and the row's fields give the command back. One lemma per command. -/
namespace Sys2Proof

/-! ### The fields of an encoded word (R100) -/

theorem wordR_toNat (op : BitVec 8) (d a b c : RegNo) :
    (wordR op d a b c).toNat = op.toNat * 2 ^ 24 + d.toNat * 2 ^ 18 + a.toNat * 2 ^ 12 + b.toNat * 2 ^ 6 + c.toNat := by
  have := op.isLt; have := d.isLt; have := a.isLt; have := b.isLt; have := c.isLt
  simp only [wordR, BitVec.toNat_ofNat]
  omega

theorem wordI_toNat (op : BitVec 8) (d a : RegNo) (imm : Imm) :
    (wordI op d a imm).toNat = op.toNat * 2 ^ 24 + d.toNat * 2 ^ 18 + a.toNat * 2 ^ 12 + imm.toNat := by
  have := op.isLt; have := d.isLt; have := a.isLt; have := imm.isLt
  simp only [wordI, BitVec.toNat_ofNat]
  omega

@[simp] theorem fieldOp_wordR (op : BitVec 8) (d a b c : RegNo) : fieldOp (wordR op d a b c) = op := by
  apply BitVec.eq_of_toNat_eq
  have := op.isLt; have := d.isLt; have := a.isLt; have := b.isLt; have := c.isLt
  simp only [fieldOp, bitsAt, BitVec.toNat_ofNat, wordR_toNat]
  omega

@[simp] theorem fieldD_wordR (op : BitVec 8) (d a b c : RegNo) : fieldD (wordR op d a b c) = d := by
  apply BitVec.eq_of_toNat_eq
  have := op.isLt; have := d.isLt; have := a.isLt; have := b.isLt; have := c.isLt
  simp only [fieldD, bitsAt, BitVec.toNat_ofNat, wordR_toNat]
  omega

@[simp] theorem fieldA_wordR (op : BitVec 8) (d a b c : RegNo) : fieldA (wordR op d a b c) = a := by
  apply BitVec.eq_of_toNat_eq
  have := op.isLt; have := d.isLt; have := a.isLt; have := b.isLt; have := c.isLt
  simp only [fieldA, bitsAt, BitVec.toNat_ofNat, wordR_toNat]
  omega

@[simp] theorem fieldB_wordR (op : BitVec 8) (d a b c : RegNo) : fieldB (wordR op d a b c) = b := by
  apply BitVec.eq_of_toNat_eq
  have := op.isLt; have := d.isLt; have := a.isLt; have := b.isLt; have := c.isLt
  simp only [fieldB, bitsAt, BitVec.toNat_ofNat, wordR_toNat]
  omega

@[simp] theorem fieldC_wordR (op : BitVec 8) (d a b c : RegNo) : fieldC (wordR op d a b c) = c := by
  apply BitVec.eq_of_toNat_eq
  have := op.isLt; have := d.isLt; have := a.isLt; have := b.isLt; have := c.isLt
  simp only [fieldC, bitsAt, BitVec.toNat_ofNat, wordR_toNat]
  omega

@[simp] theorem fieldOp_wordI (op : BitVec 8) (d a : RegNo) (imm : Imm) : fieldOp (wordI op d a imm) = op := by
  apply BitVec.eq_of_toNat_eq
  have := op.isLt; have := d.isLt; have := a.isLt; have := imm.isLt
  simp only [fieldOp, bitsAt, BitVec.toNat_ofNat, wordI_toNat]
  omega

@[simp] theorem fieldD_wordI (op : BitVec 8) (d a : RegNo) (imm : Imm) : fieldD (wordI op d a imm) = d := by
  apply BitVec.eq_of_toNat_eq
  have := op.isLt; have := d.isLt; have := a.isLt; have := imm.isLt
  simp only [fieldD, bitsAt, BitVec.toNat_ofNat, wordI_toNat]
  omega

@[simp] theorem fieldA_wordI (op : BitVec 8) (d a : RegNo) (imm : Imm) : fieldA (wordI op d a imm) = a := by
  apply BitVec.eq_of_toNat_eq
  have := op.isLt; have := d.isLt; have := a.isLt; have := imm.isLt
  simp only [fieldA, bitsAt, BitVec.toNat_ofNat, wordI_toNat]
  omega

@[simp] theorem fieldImm_wordI (op : BitVec 8) (d a : RegNo) (imm : Imm) : fieldImm (wordI op d a imm) = imm := by
  apply BitVec.eq_of_toNat_eq
  have := op.isLt; have := d.isLt; have := a.isLt; have := imm.isLt
  simp only [fieldImm, bitsAt, BitVec.toNat_ofNat, wordI_toNat]
  omega

/-! ### The masks of R107, one lemma per shape of row -/

theorem wordR_append (op : BitVec 8) (d a b c : RegNo) : wordR op d a b c = op ++ d ++ a ++ b ++ c := by
  apply BitVec.eq_of_toNat_eq
  have := op.isLt; have := d.isLt; have := a.isLt; have := b.isLt; have := c.isLt
  rw [wordR_toNat]
  simp only [BitVec.toNat_append]
  rw [← Nat.shiftLeft_add_eq_or_of_lt (by omega), ← Nat.shiftLeft_add_eq_or_of_lt (by omega),
    ← Nat.shiftLeft_add_eq_or_of_lt (by omega), ← Nat.shiftLeft_add_eq_or_of_lt (by omega)]
  simp only [Nat.shiftLeft_eq]
  omega

theorem wordI_append (op : BitVec 8) (d a : RegNo) (imm : Imm) : wordI op d a imm = op ++ d ++ a ++ imm := by
  apply BitVec.eq_of_toNat_eq
  have := op.isLt; have := d.isLt; have := a.isLt; have := imm.isLt
  rw [wordI_toNat]
  simp only [BitVec.toNat_append]
  rw [← Nat.shiftLeft_add_eq_or_of_lt (by omega), ← Nat.shiftLeft_add_eq_or_of_lt (by omega),
    ← Nat.shiftLeft_add_eq_or_of_lt (by omega)]
  simp only [Nat.shiftLeft_eq]
  omega

/-- A match column in format R (R105). -/
theorem wordI_zero (op : BitVec 8) : wordI op 0 0 0 = wordR op 0 0 0 0 := by simp [wordI, wordR]

theorem and_ff8 (x : BitVec 8) : x &&& 0xFF#8 = x := BitVec.and_allOnes
theorem and_ff6 (x : BitVec 6) : x &&& 0x3F#6 = x := BitVec.and_allOnes
theorem and_fff (x : BitVec 12) : x &&& 0xFFF#12 = x := BitVec.and_allOnes
theorem and_zero6 (x : BitVec 6) : x &&& 0#6 = 0#6 := BitVec.and_zero
theorem and_zero12 (x : BitVec 12) : x &&& 0#12 = 0#12 := BitVec.and_zero

theorem wordI_mask_FF000000 (op : BitVec 8) (d a : RegNo) (imm : Imm) : wordI op d a imm &&& (0xFF000000 : Word) = wordI op 0 0 0 := by
  rw [wordI_append, wordI_append]
  change (op ++ d ++ a ++ imm : BitVec (8 + 6 + 6 + 12)) &&& (0xFF#8 ++ 0#6 ++ 0#6 ++ 0#12 : BitVec (8 + 6 + 6 + 12)) = (op ++ 0#6 ++ 0#6 ++ 0#12 : BitVec (8 + 6 + 6 + 12))
  simp only [BitVec.and_append, and_ff8, and_zero12, and_zero6]

theorem wordI_mask_FF03F000 (op : BitVec 8) (d : RegNo) (imm : Imm) : wordI op d 0 imm &&& (0xFF03F000 : Word) = wordI op 0 0 0 := by
  rw [wordI_append, wordI_append]
  change (op ++ d ++ 0#6 ++ imm : BitVec (8 + 6 + 6 + 12)) &&& (0xFF#8 ++ 0#6 ++ 0x3F#6 ++ 0#12 : BitVec (8 + 6 + 6 + 12)) = (op ++ 0#6 ++ 0#6 ++ 0#12 : BitVec (8 + 6 + 6 + 12))
  simp only [BitVec.and_append, and_ff6, and_ff8, and_zero12, and_zero6]

theorem wordI_mask_FFFC0000 (op : BitVec 8) (a : RegNo) (imm : Imm) : wordI op 0 a imm &&& (0xFFFC0000 : Word) = wordI op 0 0 0 := by
  rw [wordI_append, wordI_append]
  change (op ++ 0#6 ++ a ++ imm : BitVec (8 + 6 + 6 + 12)) &&& (0xFF#8 ++ 0x3F#6 ++ 0#6 ++ 0#12 : BitVec (8 + 6 + 6 + 12)) = (op ++ 0#6 ++ 0#6 ++ 0#12 : BitVec (8 + 6 + 6 + 12))
  simp only [BitVec.and_append, and_ff6, and_ff8, and_zero12, and_zero6]

theorem wordR_mask_FF000000 (op : BitVec 8) (d a b c : RegNo) : wordR op d a b c &&& (0xFF000000 : Word) = wordI op 0 0 0 := by
  rw [wordI_zero, wordR_append, wordR_append]
  change (op ++ d ++ a ++ b ++ c : BitVec (8 + 6 + 6 + 6 + 6)) &&& (0xFF#8 ++ 0#6 ++ 0#6 ++ 0#6 ++ 0#6 : BitVec (8 + 6 + 6 + 6 + 6)) = (op ++ 0#6 ++ 0#6 ++ 0#6 ++ 0#6 : BitVec (8 + 6 + 6 + 6 + 6))
  simp only [BitVec.and_append, and_ff8, and_zero6]

theorem wordR_mask_FF00003F (op : BitVec 8) (d a b : RegNo) : wordR op d a b 0 &&& (0xFF00003F : Word) = wordI op 0 0 0 := by
  rw [wordI_zero, wordR_append, wordR_append]
  change (op ++ d ++ a ++ b ++ 0#6 : BitVec (8 + 6 + 6 + 6 + 6)) &&& (0xFF#8 ++ 0#6 ++ 0#6 ++ 0#6 ++ 0x3F#6 : BitVec (8 + 6 + 6 + 6 + 6)) = (op ++ 0#6 ++ 0#6 ++ 0#6 ++ 0#6 : BitVec (8 + 6 + 6 + 6 + 6))
  simp only [BitVec.and_append, and_ff6, and_ff8, and_zero6]

theorem wordR_mask_FF000FC0 (op : BitVec 8) (d a c : RegNo) : wordR op d a 0 c &&& (0xFF000FC0 : Word) = wordI op 0 0 0 := by
  rw [wordI_zero, wordR_append, wordR_append]
  change (op ++ d ++ a ++ 0#6 ++ c : BitVec (8 + 6 + 6 + 6 + 6)) &&& (0xFF#8 ++ 0#6 ++ 0#6 ++ 0x3F#6 ++ 0#6 : BitVec (8 + 6 + 6 + 6 + 6)) = (op ++ 0#6 ++ 0#6 ++ 0#6 ++ 0#6 : BitVec (8 + 6 + 6 + 6 + 6))
  simp only [BitVec.and_append, and_ff6, and_ff8, and_zero6]

theorem wordR_mask_FF000FFF (op : BitVec 8) (d a : RegNo) : wordR op d a 0 0 &&& (0xFF000FFF : Word) = wordI op 0 0 0 := by
  rw [wordI_zero, wordR_append, wordR_append]
  change (op ++ d ++ a ++ 0#6 ++ 0#6 : BitVec (8 + 6 + 6 + 6 + 6)) &&& (0xFF#8 ++ 0#6 ++ 0#6 ++ 0x3F#6 ++ 0x3F#6 : BitVec (8 + 6 + 6 + 6 + 6)) = (op ++ 0#6 ++ 0#6 ++ 0#6 ++ 0#6 : BitVec (8 + 6 + 6 + 6 + 6))
  simp only [BitVec.and_append, and_ff6, and_ff8, and_zero6]

theorem wordR_mask_FF03FFC0 (op : BitVec 8) (d c : RegNo) : wordR op d 0 0 c &&& (0xFF03FFC0 : Word) = wordI op 0 0 0 := by
  rw [wordI_zero, wordR_append, wordR_append]
  change (op ++ d ++ 0#6 ++ 0#6 ++ c : BitVec (8 + 6 + 6 + 6 + 6)) &&& (0xFF#8 ++ 0#6 ++ 0x3F#6 ++ 0x3F#6 ++ 0#6 : BitVec (8 + 6 + 6 + 6 + 6)) = (op ++ 0#6 ++ 0#6 ++ 0#6 ++ 0#6 : BitVec (8 + 6 + 6 + 6 + 6))
  simp only [BitVec.and_append, and_ff6, and_ff8, and_zero6]

theorem wordR_mask_FF03FFFF (op : BitVec 8) (d : RegNo) : wordR op d 0 0 0 &&& (0xFF03FFFF : Word) = wordI op 0 0 0 := by
  rw [wordI_zero, wordR_append, wordR_append]
  change (op ++ d ++ 0#6 ++ 0#6 ++ 0#6 : BitVec (8 + 6 + 6 + 6 + 6)) &&& (0xFF#8 ++ 0#6 ++ 0x3F#6 ++ 0x3F#6 ++ 0x3F#6 : BitVec (8 + 6 + 6 + 6 + 6)) = (op ++ 0#6 ++ 0#6 ++ 0#6 ++ 0#6 : BitVec (8 + 6 + 6 + 6 + 6))
  simp only [BitVec.and_append, and_ff6, and_ff8, and_zero6]

theorem wordR_mask_FFFC003F (op : BitVec 8) (a b : RegNo) : wordR op 0 a b 0 &&& (0xFFFC003F : Word) = wordI op 0 0 0 := by
  rw [wordI_zero, wordR_append, wordR_append]
  change (op ++ 0#6 ++ a ++ b ++ 0#6 : BitVec (8 + 6 + 6 + 6 + 6)) &&& (0xFF#8 ++ 0x3F#6 ++ 0#6 ++ 0#6 ++ 0x3F#6 : BitVec (8 + 6 + 6 + 6 + 6)) = (op ++ 0#6 ++ 0#6 ++ 0#6 ++ 0#6 : BitVec (8 + 6 + 6 + 6 + 6))
  simp only [BitVec.and_append, and_ff6, and_ff8, and_zero6]

theorem wordR_mask_FFFFFFFF (op : BitVec 8) : wordR op 0 0 0 0 &&& (0xFFFFFFFF : Word) = wordI op 0 0 0 := by
  rw [wordI_zero, wordR_append]
  change (op ++ 0#6 ++ 0#6 ++ 0#6 ++ 0#6 : BitVec (8 + 6 + 6 + 6 + 6)) &&& (0xFF#8 ++ 0x3F#6 ++ 0x3F#6 ++ 0x3F#6 ++ 0x3F#6 : BitVec (8 + 6 + 6 + 6 + 6)) = (op ++ 0#6 ++ 0#6 ++ 0#6 ++ 0#6 : BitVec (8 + 6 + 6 + 6 + 6))
  simp only [BitVec.and_append, and_ff6, and_ff8]

end Sys2Proof

namespace Sys2Proof.Laws

/-- The word of a command has its row's opcode and match bits, and the row builds the command from it (R105, R107). -/
def EncodedRow.Statement (i : Instr) : Prop :=
  ∃ r, rowOf (fieldOp (encode i)) = some r ∧ encode i &&& r.mask = r.matchWord ∧ r.build (encode i) = i

/-- The statement from its three parts for a row. -/
theorem encodedRow_of (i : Instr) (r : Row) (w : Word) (he : encode i = w) (hr : rowOf (fieldOp w) = some r)
    (hm : w &&& r.mask = r.matchWord) (hb : r.build w = i) : EncodedRow.Statement i :=
  ⟨r, by rw [he]; exact hr, by rw [he]; exact hm, by rw [he]; exact hb⟩

theorem EncodedRow.nop : EncodedRow.Statement (.nop) :=
  encodedRow_of _ ⟨0x01, 0xFFFFFFFF, fun _ => .nop⟩ (wordR 0x01 0 0 0 0) rfl
    (by rw [fieldOp_wordR]; rfl) (wordR_mask_FFFFFFFF ..) (by simp)

theorem EncodedRow.chSet (d : RegNo) (imm : Imm) : EncodedRow.Statement (.chSet d imm) :=
  encodedRow_of _ ⟨0x08, 0xFF03F000, fun w => .chSet (fieldD w) (fieldImm w)⟩ (wordI 0x08 d 0 imm) rfl
    (by rw [fieldOp_wordI]; rfl) (wordI_mask_FF03F000 ..) (by simp)

theorem EncodedRow.chNot (d a : RegNo) : EncodedRow.Statement (.chNot d a) :=
  encodedRow_of _ ⟨0x09, 0xFF000FFF, fun w => .chNot (fieldD w) (fieldA w)⟩ (wordR 0x09 d a 0 0) rfl
    (by rw [fieldOp_wordR]; rfl) (wordR_mask_FF000FFF ..) (by simp)

theorem EncodedRow.chAnd (d a b : RegNo) : EncodedRow.Statement (.chAnd d a b) :=
  encodedRow_of _ ⟨0x0A, 0xFF00003F, fun w => .chAnd (fieldD w) (fieldA w) (fieldB w)⟩ (wordR 0x0A d a b 0) rfl
    (by rw [fieldOp_wordR]; rfl) (wordR_mask_FF00003F ..) (by simp)

theorem EncodedRow.chOr (d a b : RegNo) : EncodedRow.Statement (.chOr d a b) :=
  encodedRow_of _ ⟨0x0B, 0xFF00003F, fun w => .chOr (fieldD w) (fieldA w) (fieldB w)⟩ (wordR 0x0B d a b 0) rfl
    (by rw [fieldOp_wordR]; rfl) (wordR_mask_FF00003F ..) (by simp)

theorem EncodedRow.chXor (d a b : RegNo) : EncodedRow.Statement (.chXor d a b) :=
  encodedRow_of _ ⟨0x0C, 0xFF00003F, fun w => .chXor (fieldD w) (fieldA w) (fieldB w)⟩ (wordR 0x0C d a b 0) rfl
    (by rw [fieldOp_wordR]; rfl) (wordR_mask_FF00003F ..) (by simp)

theorem EncodedRow.feLd (d : RegNo) (imm : Imm) : EncodedRow.Statement (.feLd d imm) :=
  encodedRow_of _ ⟨0x10, 0xFF03F000, fun w => .feLd (fieldD w) (fieldImm w)⟩ (wordI 0x10 d 0 imm) rfl
    (by rw [fieldOp_wordI]; rfl) (wordI_mask_FF03F000 ..) (by simp)

theorem EncodedRow.feSt (a : RegNo) (imm : Imm) : EncodedRow.Statement (.feSt a imm) :=
  encodedRow_of _ ⟨0x11, 0xFFFC0000, fun w => .feSt (fieldA w) (fieldImm w)⟩ (wordI 0x11 0 a imm) rfl
    (by rw [fieldOp_wordI]; rfl) (wordI_mask_FFFC0000 ..) (by simp)

theorem EncodedRow.feConst (d : RegNo) (imm : Imm) : EncodedRow.Statement (.feConst d imm) :=
  encodedRow_of _ ⟨0x12, 0xFF03F000, fun w => .feConst (fieldD w) (fieldImm w)⟩ (wordI 0x12 d 0 imm) rfl
    (by rw [fieldOp_wordI]; rfl) (wordI_mask_FF03F000 ..) (by simp)

theorem EncodedRow.feMov (d a : RegNo) : EncodedRow.Statement (.feMov d a) :=
  encodedRow_of _ ⟨0x13, 0xFF000FFF, fun w => .feMov (fieldD w) (fieldA w)⟩ (wordR 0x13 d a 0 0) rfl
    (by rw [fieldOp_wordR]; rfl) (wordR_mask_FF000FFF ..) (by simp)

theorem EncodedRow.feAdd (d a b : RegNo) : EncodedRow.Statement (.feAdd d a b) :=
  encodedRow_of _ ⟨0x14, 0xFF00003F, fun w => .feAdd (fieldD w) (fieldA w) (fieldB w)⟩ (wordR 0x14 d a b 0) rfl
    (by rw [fieldOp_wordR]; rfl) (wordR_mask_FF00003F ..) (by simp)

theorem EncodedRow.feSub (d a b : RegNo) : EncodedRow.Statement (.feSub d a b) :=
  encodedRow_of _ ⟨0x15, 0xFF00003F, fun w => .feSub (fieldD w) (fieldA w) (fieldB w)⟩ (wordR 0x15 d a b 0) rfl
    (by rw [fieldOp_wordR]; rfl) (wordR_mask_FF00003F ..) (by simp)

theorem EncodedRow.feNeg (d a : RegNo) : EncodedRow.Statement (.feNeg d a) :=
  encodedRow_of _ ⟨0x16, 0xFF000FFF, fun w => .feNeg (fieldD w) (fieldA w)⟩ (wordR 0x16 d a 0 0) rfl
    (by rw [fieldOp_wordR]; rfl) (wordR_mask_FF000FFF ..) (by simp)

theorem EncodedRow.feMul (d a b : RegNo) : EncodedRow.Statement (.feMul d a b) :=
  encodedRow_of _ ⟨0x17, 0xFF00003F, fun w => .feMul (fieldD w) (fieldA w) (fieldB w)⟩ (wordR 0x17 d a b 0) rfl
    (by rw [fieldOp_wordR]; rfl) (wordR_mask_FF00003F ..) (by simp)

theorem EncodedRow.feSq (d a : RegNo) : EncodedRow.Statement (.feSq d a) :=
  encodedRow_of _ ⟨0x18, 0xFF000FFF, fun w => .feSq (fieldD w) (fieldA w)⟩ (wordR 0x18 d a 0 0) rfl
    (by rw [fieldOp_wordR]; rfl) (wordR_mask_FF000FFF ..) (by simp)

theorem EncodedRow.feSq2 (d a : RegNo) : EncodedRow.Statement (.feSq2 d a) :=
  encodedRow_of _ ⟨0x19, 0xFF000FFF, fun w => .feSq2 (fieldD w) (fieldA w)⟩ (wordR 0x19 d a 0 0) rfl
    (by rw [fieldOp_wordR]; rfl) (wordR_mask_FF000FFF ..) (by simp)

theorem EncodedRow.fePow2k (d a : RegNo) (imm : Imm) : EncodedRow.Statement (.fePow2k d a imm) :=
  encodedRow_of _ ⟨0x1A, 0xFF000000, fun w => .fePow2k (fieldD w) (fieldA w) (fieldImm w)⟩ (wordI 0x1A d a imm) rfl
    (by rw [fieldOp_wordI]; rfl) (wordI_mask_FF000000 ..) (by simp)

theorem EncodedRow.feInv (d a : RegNo) : EncodedRow.Statement (.feInv d a) :=
  encodedRow_of _ ⟨0x1B, 0xFF000FFF, fun w => .feInv (fieldD w) (fieldA w)⟩ (wordR 0x1B d a 0 0) rfl
    (by rw [fieldOp_wordR]; rfl) (wordR_mask_FF000FFF ..) (by simp)

theorem EncodedRow.fePowp58 (d a : RegNo) : EncodedRow.Statement (.fePowp58 d a) :=
  encodedRow_of _ ⟨0x1C, 0xFF000FFF, fun w => .fePowp58 (fieldD w) (fieldA w)⟩ (wordR 0x1C d a 0 0) rfl
    (by rw [fieldOp_wordR]; rfl) (wordR_mask_FF000FFF ..) (by simp)

theorem EncodedRow.fePow22501 (d a b : RegNo) : EncodedRow.Statement (.fePow22501 d a b) :=
  encodedRow_of _ ⟨0x1D, 0xFF00003F, fun w => .fePow22501 (fieldD w) (fieldA w) (fieldB w)⟩ (wordR 0x1D d a b 0) rfl
    (by rw [fieldOp_wordR]; rfl) (wordR_mask_FF00003F ..) (by simp)

theorem EncodedRow.feSqrtri (d a b c : RegNo) : EncodedRow.Statement (.feSqrtri d a b c) :=
  encodedRow_of _ ⟨0x1E, 0xFF000000, fun w => .feSqrtri (fieldD w) (fieldA w) (fieldB w) (fieldC w)⟩ (wordR 0x1E d a b c) rfl
    (by rw [fieldOp_wordR]; rfl) (wordR_mask_FF000000 ..) (by simp)

theorem EncodedRow.feRed (d a : RegNo) : EncodedRow.Statement (.feRed d a) :=
  encodedRow_of _ ⟨0x1F, 0xFF000FFF, fun w => .feRed (fieldD w) (fieldA w)⟩ (wordR 0x1F d a 0 0) rfl
    (by rw [fieldOp_wordR]; rfl) (wordR_mask_FF000FFF ..) (by simp)

theorem EncodedRow.feCsel (d a b c : RegNo) : EncodedRow.Statement (.feCsel d a b c) :=
  encodedRow_of _ ⟨0x20, 0xFF000000, fun w => .feCsel (fieldD w) (fieldA w) (fieldB w) (fieldC w)⟩ (wordR 0x20 d a b c) rfl
    (by rw [fieldOp_wordR]; rfl) (wordR_mask_FF000000 ..) (by simp)

theorem EncodedRow.feCneg (d c : RegNo) : EncodedRow.Statement (.feCneg d c) :=
  encodedRow_of _ ⟨0x21, 0xFF03FFC0, fun w => .feCneg (fieldD w) (fieldC w)⟩ (wordR 0x21 d 0 0 c) rfl
    (by rw [fieldOp_wordR]; rfl) (wordR_mask_FF03FFC0 ..) (by simp)

theorem EncodedRow.feCassign (d a c : RegNo) : EncodedRow.Statement (.feCassign d a c) :=
  encodedRow_of _ ⟨0x22, 0xFF000FC0, fun w => .feCassign (fieldD w) (fieldA w) (fieldC w)⟩ (wordR 0x22 d a 0 c) rfl
    (by rw [fieldOp_wordR]; rfl) (wordR_mask_FF000FC0 ..) (by simp)

theorem EncodedRow.feEq (d a b : RegNo) : EncodedRow.Statement (.feEq d a b) :=
  encodedRow_of _ ⟨0x23, 0xFF00003F, fun w => .feEq (fieldD w) (fieldA w) (fieldB w)⟩ (wordR 0x23 d a b 0) rfl
    (by rw [fieldOp_wordR]; rfl) (wordR_mask_FF00003F ..) (by simp)

theorem EncodedRow.feIsneg (d a : RegNo) : EncodedRow.Statement (.feIsneg d a) :=
  encodedRow_of _ ⟨0x24, 0xFF000FFF, fun w => .feIsneg (fieldD w) (fieldA w)⟩ (wordR 0x24 d a 0 0) rfl
    (by rw [fieldOp_wordR]; rfl) (wordR_mask_FF000FFF ..) (by simp)

theorem EncodedRow.feIszero (d a : RegNo) : EncodedRow.Statement (.feIszero d a) :=
  encodedRow_of _ ⟨0x25, 0xFF000FFF, fun w => .feIszero (fieldD w) (fieldA w)⟩ (wordR 0x25 d a 0 0) rfl
    (by rw [fieldOp_wordR]; rfl) (wordR_mask_FF000FFF ..) (by simp)

theorem EncodedRow.scLd (d : RegNo) (imm : Imm) : EncodedRow.Statement (.scLd d imm) :=
  encodedRow_of _ ⟨0x30, 0xFF03F000, fun w => .scLd (fieldD w) (fieldImm w)⟩ (wordI 0x30 d 0 imm) rfl
    (by rw [fieldOp_wordI]; rfl) (wordI_mask_FF03F000 ..) (by simp)

theorem EncodedRow.scLdw (d : RegNo) (imm : Imm) : EncodedRow.Statement (.scLdw d imm) :=
  encodedRow_of _ ⟨0x31, 0xFF03F000, fun w => .scLdw (fieldD w) (fieldImm w)⟩ (wordI 0x31 d 0 imm) rfl
    (by rw [fieldOp_wordI]; rfl) (wordI_mask_FF03F000 ..) (by simp)

theorem EncodedRow.scSt (a : RegNo) (imm : Imm) : EncodedRow.Statement (.scSt a imm) :=
  encodedRow_of _ ⟨0x32, 0xFFFC0000, fun w => .scSt (fieldA w) (fieldImm w)⟩ (wordI 0x32 0 a imm) rfl
    (by rw [fieldOp_wordI]; rfl) (wordI_mask_FFFC0000 ..) (by simp)

theorem EncodedRow.scMov (d a : RegNo) : EncodedRow.Statement (.scMov d a) :=
  encodedRow_of _ ⟨0x33, 0xFF000FFF, fun w => .scMov (fieldD w) (fieldA w)⟩ (wordR 0x33 d a 0 0) rfl
    (by rw [fieldOp_wordR]; rfl) (wordR_mask_FF000FFF ..) (by simp)

theorem EncodedRow.scAdd (d a b : RegNo) : EncodedRow.Statement (.scAdd d a b) :=
  encodedRow_of _ ⟨0x34, 0xFF00003F, fun w => .scAdd (fieldD w) (fieldA w) (fieldB w)⟩ (wordR 0x34 d a b 0) rfl
    (by rw [fieldOp_wordR]; rfl) (wordR_mask_FF00003F ..) (by simp)

theorem EncodedRow.scSub (d a b : RegNo) : EncodedRow.Statement (.scSub d a b) :=
  encodedRow_of _ ⟨0x35, 0xFF00003F, fun w => .scSub (fieldD w) (fieldA w) (fieldB w)⟩ (wordR 0x35 d a b 0) rfl
    (by rw [fieldOp_wordR]; rfl) (wordR_mask_FF00003F ..) (by simp)

theorem EncodedRow.scMul (d a b : RegNo) : EncodedRow.Statement (.scMul d a b) :=
  encodedRow_of _ ⟨0x36, 0xFF00003F, fun w => .scMul (fieldD w) (fieldA w) (fieldB w)⟩ (wordR 0x36 d a b 0) rfl
    (by rw [fieldOp_wordR]; rfl) (wordR_mask_FF00003F ..) (by simp)

theorem EncodedRow.scNeg (d a : RegNo) : EncodedRow.Statement (.scNeg d a) :=
  encodedRow_of _ ⟨0x37, 0xFF000FFF, fun w => .scNeg (fieldD w) (fieldA w)⟩ (wordR 0x37 d a 0 0) rfl
    (by rw [fieldOp_wordR]; rfl) (wordR_mask_FF000FFF ..) (by simp)

theorem EncodedRow.scRed (d a : RegNo) : EncodedRow.Statement (.scRed d a) :=
  encodedRow_of _ ⟨0x38, 0xFF000FFF, fun w => .scRed (fieldD w) (fieldA w)⟩ (wordR 0x38 d a 0 0) rfl
    (by rw [fieldOp_wordR]; rfl) (wordR_mask_FF000FFF ..) (by simp)

theorem EncodedRow.scIscanon (d a : RegNo) : EncodedRow.Statement (.scIscanon d a) :=
  encodedRow_of _ ⟨0x39, 0xFF000FFF, fun w => .scIscanon (fieldD w) (fieldA w)⟩ (wordR 0x39 d a 0 0) rfl
    (by rw [fieldOp_wordR]; rfl) (wordR_mask_FF000FFF ..) (by simp)

theorem EncodedRow.scMmul (d a b : RegNo) : EncodedRow.Statement (.scMmul d a b) :=
  encodedRow_of _ ⟨0x3A, 0xFF00003F, fun w => .scMmul (fieldD w) (fieldA w) (fieldB w)⟩ (wordR 0x3A d a b 0) rfl
    (by rw [fieldOp_wordR]; rfl) (wordR_mask_FF00003F ..) (by simp)

theorem EncodedRow.scTomont (d a : RegNo) : EncodedRow.Statement (.scTomont d a) :=
  encodedRow_of _ ⟨0x3B, 0xFF000FFF, fun w => .scTomont (fieldD w) (fieldA w)⟩ (wordR 0x3B d a 0 0) rfl
    (by rw [fieldOp_wordR]; rfl) (wordR_mask_FF000FFF ..) (by simp)

theorem EncodedRow.scFrommont (d a : RegNo) : EncodedRow.Statement (.scFrommont d a) :=
  encodedRow_of _ ⟨0x3C, 0xFF000FFF, fun w => .scFrommont (fieldD w) (fieldA w)⟩ (wordR 0x3C d a 0 0) rfl
    (by rw [fieldOp_wordR]; rfl) (wordR_mask_FF000FFF ..) (by simp)

theorem EncodedRow.scRadix16 (d a : RegNo) : EncodedRow.Statement (.scRadix16 d a) :=
  encodedRow_of _ ⟨0x40, 0xFF000FFF, fun w => .scRadix16 (fieldD w) (fieldA w)⟩ (wordR 0x40 d a 0 0) rfl
    (by rw [fieldOp_wordR]; rfl) (wordR_mask_FF000FFF ..) (by simp)

theorem EncodedRow.scRadix2w (d a : RegNo) (imm : Imm) : EncodedRow.Statement (.scRadix2w d a imm) :=
  encodedRow_of _ ⟨0x41, 0xFF000000, fun w => .scRadix2w (fieldD w) (fieldA w) (fieldImm w)⟩ (wordI 0x41 d a imm) rfl
    (by rw [fieldOp_wordI]; rfl) (wordI_mask_FF000000 ..) (by simp)

theorem EncodedRow.scNaf (d a : RegNo) (imm : Imm) : EncodedRow.Statement (.scNaf d a imm) :=
  encodedRow_of _ ⟨0x42, 0xFF000000, fun w => .scNaf (fieldD w) (fieldA w) (fieldImm w)⟩ (wordI 0x42 d a imm) rfl
    (by rw [fieldOp_wordI]; rfl) (wordI_mask_FF000000 ..) (by simp)

theorem EncodedRow.dgSt (a : RegNo) (imm : Imm) : EncodedRow.Statement (.dgSt a imm) :=
  encodedRow_of _ ⟨0x43, 0xFFFC0000, fun w => .dgSt (fieldA w) (fieldImm w)⟩ (wordI 0x43 0 a imm) rfl
    (by rw [fieldOp_wordI]; rfl) (wordI_mask_FFFC0000 ..) (by simp)

theorem EncodedRow.ptIdent (d : RegNo) : EncodedRow.Statement (.ptIdent d) :=
  encodedRow_of _ ⟨0x50, 0xFF03FFFF, fun w => .ptIdent (fieldD w)⟩ (wordR 0x50 d 0 0 0) rfl
    (by rw [fieldOp_wordR]; rfl) (wordR_mask_FF03FFFF ..) (by simp)

theorem EncodedRow.ptBase (d : RegNo) : EncodedRow.Statement (.ptBase d) :=
  encodedRow_of _ ⟨0x51, 0xFF03FFFF, fun w => .ptBase (fieldD w)⟩ (wordR 0x51 d 0 0 0) rfl
    (by rw [fieldOp_wordR]; rfl) (wordR_mask_FF03FFFF ..) (by simp)

theorem EncodedRow.ptMov (d a : RegNo) : EncodedRow.Statement (.ptMov d a) :=
  encodedRow_of _ ⟨0x52, 0xFF000FFF, fun w => .ptMov (fieldD w) (fieldA w)⟩ (wordR 0x52 d a 0 0) rfl
    (by rw [fieldOp_wordR]; rfl) (wordR_mask_FF000FFF ..) (by simp)

theorem EncodedRow.ptDecomp (d a : RegNo) (imm : Imm) : EncodedRow.Statement (.ptDecomp d a imm) :=
  encodedRow_of _ ⟨0x53, 0xFF000000, fun w => .ptDecomp (fieldD w) (fieldA w) (fieldImm w)⟩ (wordI 0x53 d a imm) rfl
    (by rw [fieldOp_wordI]; rfl) (wordI_mask_FF000000 ..) (by simp)

theorem EncodedRow.ptComp (a : RegNo) (imm : Imm) : EncodedRow.Statement (.ptComp a imm) :=
  encodedRow_of _ ⟨0x54, 0xFFFC0000, fun w => .ptComp (fieldA w) (fieldImm w)⟩ (wordI 0x54 0 a imm) rfl
    (by rw [fieldOp_wordI]; rfl) (wordI_mask_FFFC0000 ..) (by simp)

theorem EncodedRow.ptE2p (d a : RegNo) : EncodedRow.Statement (.ptE2p d a) :=
  encodedRow_of _ ⟨0x55, 0xFF000FFF, fun w => .ptE2p (fieldD w) (fieldA w)⟩ (wordR 0x55 d a 0 0) rfl
    (by rw [fieldOp_wordR]; rfl) (wordR_mask_FF000FFF ..) (by simp)

theorem EncodedRow.ptE2pn (d a : RegNo) : EncodedRow.Statement (.ptE2pn d a) :=
  encodedRow_of _ ⟨0x56, 0xFF000FFF, fun w => .ptE2pn (fieldD w) (fieldA w)⟩ (wordR 0x56 d a 0 0) rfl
    (by rw [fieldOp_wordR]; rfl) (wordR_mask_FF000FFF ..) (by simp)

theorem EncodedRow.ptE2an (d a : RegNo) : EncodedRow.Statement (.ptE2an d a) :=
  encodedRow_of _ ⟨0x57, 0xFF000FFF, fun w => .ptE2an (fieldD w) (fieldA w)⟩ (wordR 0x57 d a 0 0) rfl
    (by rw [fieldOp_wordR]; rfl) (wordR_mask_FF000FFF ..) (by simp)

theorem EncodedRow.ptP2e (d a : RegNo) : EncodedRow.Statement (.ptP2e d a) :=
  encodedRow_of _ ⟨0x58, 0xFF000FFF, fun w => .ptP2e (fieldD w) (fieldA w)⟩ (wordR 0x58 d a 0 0) rfl
    (by rw [fieldOp_wordR]; rfl) (wordR_mask_FF000FFF ..) (by simp)

theorem EncodedRow.ptC2p (d a : RegNo) : EncodedRow.Statement (.ptC2p d a) :=
  encodedRow_of _ ⟨0x59, 0xFF000FFF, fun w => .ptC2p (fieldD w) (fieldA w)⟩ (wordR 0x59 d a 0 0) rfl
    (by rw [fieldOp_wordR]; rfl) (wordR_mask_FF000FFF ..) (by simp)

theorem EncodedRow.ptC2e (d a : RegNo) : EncodedRow.Statement (.ptC2e d a) :=
  encodedRow_of _ ⟨0x5A, 0xFF000FFF, fun w => .ptC2e (fieldD w) (fieldA w)⟩ (wordR 0x5A d a 0 0) rfl
    (by rw [fieldOp_wordR]; rfl) (wordR_mask_FF000FFF ..) (by simp)

theorem EncodedRow.ptDbl (d a : RegNo) : EncodedRow.Statement (.ptDbl d a) :=
  encodedRow_of _ ⟨0x5B, 0xFF000FFF, fun w => .ptDbl (fieldD w) (fieldA w)⟩ (wordR 0x5B d a 0 0) rfl
    (by rw [fieldOp_wordR]; rfl) (wordR_mask_FF000FFF ..) (by simp)

theorem EncodedRow.ptAdd (d a b : RegNo) : EncodedRow.Statement (.ptAdd d a b) :=
  encodedRow_of _ ⟨0x5C, 0xFF00003F, fun w => .ptAdd (fieldD w) (fieldA w) (fieldB w)⟩ (wordR 0x5C d a b 0) rfl
    (by rw [fieldOp_wordR]; rfl) (wordR_mask_FF00003F ..) (by simp)

theorem EncodedRow.ptSub (d a b : RegNo) : EncodedRow.Statement (.ptSub d a b) :=
  encodedRow_of _ ⟨0x5D, 0xFF00003F, fun w => .ptSub (fieldD w) (fieldA w) (fieldB w)⟩ (wordR 0x5D d a b 0) rfl
    (by rw [fieldOp_wordR]; rfl) (wordR_mask_FF00003F ..) (by simp)

theorem EncodedRow.ptNeg (d a : RegNo) : EncodedRow.Statement (.ptNeg d a) :=
  encodedRow_of _ ⟨0x5E, 0xFF000FFF, fun w => .ptNeg (fieldD w) (fieldA w)⟩ (wordR 0x5E d a 0 0) rfl
    (by rw [fieldOp_wordR]; rfl) (wordR_mask_FF000FFF ..) (by simp)

theorem EncodedRow.ptCsel (d a b c : RegNo) : EncodedRow.Statement (.ptCsel d a b c) :=
  encodedRow_of _ ⟨0x5F, 0xFF000000, fun w => .ptCsel (fieldD w) (fieldA w) (fieldB w) (fieldC w)⟩ (wordR 0x5F d a b c) rfl
    (by rw [fieldOp_wordR]; rfl) (wordR_mask_FF000000 ..) (by simp)

theorem EncodedRow.ptCneg (d c : RegNo) : EncodedRow.Statement (.ptCneg d c) :=
  encodedRow_of _ ⟨0x60, 0xFF03FFC0, fun w => .ptCneg (fieldD w) (fieldC w)⟩ (wordR 0x60 d 0 0 c) rfl
    (by rw [fieldOp_wordR]; rfl) (wordR_mask_FF03FFC0 ..) (by simp)

theorem EncodedRow.ptCassign (d a c : RegNo) : EncodedRow.Statement (.ptCassign d a c) :=
  encodedRow_of _ ⟨0x61, 0xFF000FC0, fun w => .ptCassign (fieldD w) (fieldA w) (fieldC w)⟩ (wordR 0x61 d a 0 c) rfl
    (by rw [fieldOp_wordR]; rfl) (wordR_mask_FF000FC0 ..) (by simp)

theorem EncodedRow.ptEq (d a b : RegNo) : EncodedRow.Statement (.ptEq d a b) :=
  encodedRow_of _ ⟨0x62, 0xFF00003F, fun w => .ptEq (fieldD w) (fieldA w) (fieldB w)⟩ (wordR 0x62 d a b 0) rfl
    (by rw [fieldOp_wordR]; rfl) (wordR_mask_FF00003F ..) (by simp)

theorem EncodedRow.ptIssmall (d a : RegNo) : EncodedRow.Statement (.ptIssmall d a) :=
  encodedRow_of _ ⟨0x63, 0xFF000FFF, fun w => .ptIssmall (fieldD w) (fieldA w)⟩ (wordR 0x63 d a 0 0) rfl
    (by rw [fieldOp_wordR]; rfl) (wordR_mask_FF000FFF ..) (by simp)

theorem EncodedRow.ptIsident (d a : RegNo) : EncodedRow.Statement (.ptIsident d a) :=
  encodedRow_of _ ⟨0x64, 0xFF000FFF, fun w => .ptIsident (fieldD w) (fieldA w)⟩ (wordR 0x64 d a 0 0) rfl
    (by rw [fieldOp_wordR]; rfl) (wordR_mask_FF000FFF ..) (by simp)

theorem EncodedRow.ptMulcof (d a : RegNo) : EncodedRow.Statement (.ptMulcof d a) :=
  encodedRow_of _ ⟨0x65, 0xFF000FFF, fun w => .ptMulcof (fieldD w) (fieldA w)⟩ (wordR 0x65 d a 0 0) rfl
    (by rw [fieldOp_wordR]; rfl) (wordR_mask_FF000FFF ..) (by simp)

theorem EncodedRow.ptEadd (d a b : RegNo) : EncodedRow.Statement (.ptEadd d a b) :=
  encodedRow_of _ ⟨0x66, 0xFF00003F, fun w => .ptEadd (fieldD w) (fieldA w) (fieldB w)⟩ (wordR 0x66 d a b 0) rfl
    (by rw [fieldOp_wordR]; rfl) (wordR_mask_FF00003F ..) (by simp)

theorem EncodedRow.ptEsub (d a b : RegNo) : EncodedRow.Statement (.ptEsub d a b) :=
  encodedRow_of _ ⟨0x67, 0xFF00003F, fun w => .ptEsub (fieldD w) (fieldA w) (fieldB w)⟩ (wordR 0x67 d a b 0) rfl
    (by rw [fieldOp_wordR]; rfl) (wordR_mask_FF00003F ..) (by simp)

theorem EncodedRow.ptEdbl (d a : RegNo) : EncodedRow.Statement (.ptEdbl d a) :=
  encodedRow_of _ ⟨0x68, 0xFF000FFF, fun w => .ptEdbl (fieldD w) (fieldA w)⟩ (wordR 0x68 d a 0 0) rfl
    (by rw [fieldOp_wordR]; rfl) (wordR_mask_FF000FFF ..) (by simp)

theorem EncodedRow.ptSmul (d a b : RegNo) : EncodedRow.Statement (.ptSmul d a b) :=
  encodedRow_of _ ⟨0x70, 0xFF00003F, fun w => .ptSmul (fieldD w) (fieldA w) (fieldB w)⟩ (wordR 0x70 d a b 0) rfl
    (by rw [fieldOp_wordR]; rfl) (wordR_mask_FF00003F ..) (by simp)

theorem EncodedRow.ptDsmb (d a b c : RegNo) : EncodedRow.Statement (.ptDsmb d a b c) :=
  encodedRow_of _ ⟨0x71, 0xFF000000, fun w => .ptDsmb (fieldD w) (fieldA w) (fieldB w) (fieldC w)⟩ (wordR 0x71 d a b c) rfl
    (by rw [fieldOp_wordR]; rfl) (wordR_mask_FF000000 ..) (by simp)

theorem EncodedRow.msmClr : EncodedRow.Statement (.msmClr) :=
  encodedRow_of _ ⟨0x72, 0xFFFFFFFF, fun _ => .msmClr⟩ (wordR 0x72 0 0 0 0) rfl
    (by rw [fieldOp_wordR]; rfl) (wordR_mask_FFFFFFFF ..) (by simp)

theorem EncodedRow.msmPush (a b : RegNo) : EncodedRow.Statement (.msmPush a b) :=
  encodedRow_of _ ⟨0x73, 0xFFFC003F, fun w => .msmPush (fieldA w) (fieldB w)⟩ (wordR 0x73 0 a b 0) rfl
    (by rw [fieldOp_wordR]; rfl) (wordR_mask_FFFC003F ..) (by simp)

theorem EncodedRow.msmRun (d : RegNo) : EncodedRow.Statement (.msmRun d) :=
  encodedRow_of _ ⟨0x74, 0xFF03FFFF, fun w => .msmRun (fieldD w)⟩ (wordR 0x74 d 0 0 0) rfl
    (by rw [fieldOp_wordR]; rfl) (wordR_mask_FF03FFFF ..) (by simp)

theorem EncodedRow.ell2 (d a : RegNo) : EncodedRow.Statement (.ell2 d a) :=
  encodedRow_of _ ⟨0x78, 0xFF000FFF, fun w => .ell2 (fieldD w) (fieldA w)⟩ (wordR 0x78 d a 0 0) rfl
    (by rw [fieldOp_wordR]; rfl) (wordR_mask_FF000FFF ..) (by simp)

theorem EncodedRow.mtoe (d a : RegNo) (imm : Imm) : EncodedRow.Statement (.mtoe d a imm) :=
  encodedRow_of _ ⟨0x79, 0xFF000000, fun w => .mtoe (fieldD w) (fieldA w) (fieldImm w)⟩ (wordI 0x79 d a imm) rfl
    (by rw [fieldOp_wordI]; rfl) (wordI_mask_FF000000 ..) (by simp)

end Sys2Proof.Laws
end

