-- ==== Sys2Proof/Laws/Points.lean ====
section
/-! SUPPORT. Selection (41_field.md R164) and the point formulas of 43_point.md: what each returns in GF(p), on loose
limbs, and its limb bound. -/
namespace Sys2Proof.Machine

/-! ### Selection -/

theorem limbSelect_eq (x y : BitVec 64) (c : Bool) : limbSelect x y c = if c then y else x := by
  cases c
  · simp [limbSelect, choiceMask]
  · have h : choiceMask true = BitVec.allOnes 64 := by decide
    rw [limbSelect, h, BitVec.allOnes_and, ← BitVec.xor_assoc, BitVec.xor_self, BitVec.zero_xor, if_pos rfl]

/-- `fe_select` (R164). -/
theorem feSelect_eq (a b : Fe) (c : Bool) : feSelect a b c = if c then b else a := by
  cases c <;> simp [feSelect, limbSelect_eq]

/-- `fe_cassign` (R164). -/
theorem feCassign_eq (x y : Fe) (c : Bool) : feCassign x y c = if c then y else x := feSelect_eq x y c

/-- `fe_cneg` (R164). -/
theorem feCneg_eq (x : Fe) (c : Bool) : feCneg x c = if c then feNeg x else x := feSelect_eq x _ c

theorem selExt_eq (a b : Ext) (c : Bool) : selExt a b c = if c then b else a := by
  cases c <;> simp [selExt, feSelect_eq]

theorem selPN_eq (a b : PNiels) (c : Bool) : selPN a b c = if c then b else a := by
  cases c <;> simp [selPN, feSelect_eq]

theorem selAN_eq (a b : ANiels) (c : Bool) : selAN a b c = if c then b else a := by
  cases c <;> simp [selAN, feSelect_eq]

theorem cnegPN_eq (n : PNiels) (c : Bool) : cnegPN n c = if c then negPN n else n := selPN_eq n _ c

/-! ### Results with a value -/

theorem feAdd_is {a b : Fe} {u v : GF} (ha : a.Is u) (hb : b.Is v) : (feAdd a b).Is (u + v) :=
  ⟨(feAdd_below a b).mono (by decide), by rw [feAdd_gf a b ha.1 hb.1, ha.2, hb.2]⟩

theorem feSub_is {a b : Fe} {u v : GF} (ha : a.Is u) (hb : b.Is v) : (feSub a b).Is (u - v) :=
  ⟨(feSub_below a b).mono (by decide), by rw [feSub_gf a b ha.1 hb.1, ha.2, hb.2]⟩

theorem feNeg_is {a : Fe} {u : GF} (ha : a.Is u) : (feNeg a).Is (-u) :=
  ⟨(feNeg_below a).mono (by decide), by rw [feNeg_gf a ha.1, ha.2]⟩

theorem feSq2_is {a : Fe} {u : GF} (ha : a.Is u) : (feSq2 a).Is (2 * u ^ 2) :=
  ⟨(feSq2_below a).mono (by decide), by rw [feSq2_gf a ha.1, ha.2]⟩

theorem feInv_is {a : Fe} {u : GF} (ha : a.Is u) : (feInvert a).Is (gfInv u) := ha.2 ▸ feInvert_is a ha.1

/-- EDWARDS_D2 is `2 d` (41_field.md R160). -/
theorem feEdwardsD2_is : feEdwardsD2.Is (2 * gfD) := by
  refine ⟨by decide, ?_⟩
  have h : feEdwardsD2.fval = (2 * feEdwardsD.fval) % p := by decide +kernel
  rw [Fe.gf, h, ZMod.natCast_mod, Nat.cast_mul, gfD, Fe.gf, Nat.cast_ofNat]

/-- An `EXT` content with loose limbs and given components. -/
def Ext.Is (e : Ext) (g : GExt) : Prop := e.X.Is g.X ∧ e.Y.Is g.Y ∧ e.Z.Is g.Z ∧ e.T.Is g.T
/-- A `PROJ` content with loose limbs and given components. -/
def Proj.Is (e : Proj) (g : GProj) : Prop := e.X.Is g.X ∧ e.Y.Is g.Y ∧ e.Z.Is g.Z
/-- A `COMPL` content with loose limbs and given components. -/
def Compl.Is (e : Compl) (g : GCompl) : Prop := e.X.Is g.X ∧ e.Y.Is g.Y ∧ e.Z.Is g.Z ∧ e.T.Is g.T
/-- A `PNIELS` content with loose limbs and given components. -/
def PNiels.Is (e : PNiels) (g : GPNiels) : Prop := e.YpX.Is g.YpX ∧ e.YmX.Is g.YmX ∧ e.Z.Is g.Z ∧ e.T2d.Is g.T2d
/-- An `ANIELS` content with loose limbs and given components. -/
def ANiels.Is (e : ANiels) (g : GANiels) : Prop := e.ypx.Is g.ypx ∧ e.ymx.Is g.ymx ∧ e.xy2d.Is g.xy2d

theorem Ext.is_iff (e : Ext) (g : GExt) : e.Is g ↔ e.Below 54 ∧ e.gf = g := by
  simp only [Ext.Is, Fe.Is, Ext.Below, Ext.gf, GExt.ext_iff]
  tauto

theorem Proj.is_iff (e : Proj) (g : GProj) : e.Is g ↔ e.Below 54 ∧ e.gf = g := by
  simp only [Proj.Is, Fe.Is, Proj.Below, Proj.gf, GProj.ext_iff]
  tauto

theorem Compl.is_iff (e : Compl) (g : GCompl) : e.Is g ↔ e.Below 54 ∧ e.gf = g := by
  simp only [Compl.Is, Fe.Is, Compl.Below, Compl.gf, GCompl.ext_iff]
  tauto

theorem PNiels.is_iff (e : PNiels) (g : GPNiels) : e.Is g ↔ e.Below 54 ∧ e.gf = g := by
  simp only [PNiels.Is, Fe.Is, PNiels.Below, PNiels.gf, GPNiels.ext_iff]
  tauto

theorem ANiels.is_iff (e : ANiels) (g : GANiels) : e.Is g ↔ e.Below 54 ∧ e.gf = g := by
  simp only [ANiels.Is, Fe.Is, ANiels.Below, ANiels.gf, GANiels.ext_iff]
  tauto

/-! ### The formulas -/

theorem e2p_is {e : Ext} {g : GExt} (h : e.Is g) : (e2p e).Is g.toProj := ⟨h.1, h.2.1, h.2.2.1⟩

theorem e2pn_is {e : Ext} {g : GExt} (h : e.Is g) : (e2pn e).Is g.toPN :=
  ⟨feAdd_is h.2.1 h.1, feSub_is h.2.1 h.1, h.2.2.1, feMul_is h.2.2.2 feEdwardsD2_is⟩

theorem affine_is {e : Ext} {g : GExt} (h : e.Is g) : (affine e).1.Is g.aff.1 ∧ (affine e).2.Is g.aff.2 := by
  simp only [affine, strictFe_eq]
  exact ⟨feMul_is h.1 (feInv_is h.2.2.1), feMul_is h.2.1 (feInv_is h.2.2.1)⟩

theorem e2an_is {e : Ext} {g : GExt} (h : e.Is g) : (e2an e).Is g.toAN :=
  have a := affine_is h
  ⟨feAdd_is a.2 a.1, feSub_is a.2 a.1, feMul_is (feMul_is a.1 a.2) feEdwardsD2_is⟩

theorem p2e_is {e : Proj} {g : GProj} (h : e.Is g) : (p2e e).Is g.toExt :=
  ⟨feMul_is h.1 h.2.2, feMul_is h.2.1 h.2.2, feSq_is h.2.2, feMul_is h.1 h.2.1⟩

theorem c2p_is {e : Compl} {g : GCompl} (h : e.Is g) : (c2p e).Is g.toProj :=
  ⟨feMul_is h.1 h.2.2.2, feMul_is h.2.1 h.2.2.1, feMul_is h.2.2.1 h.2.2.2⟩

theorem c2e_is {e : Compl} {g : GCompl} (h : e.Is g) : (c2e e).Is g.toExt :=
  ⟨feMul_is h.1 h.2.2.2, feMul_is h.2.1 h.2.2.1, feMul_is h.2.2.1 h.2.2.2, feMul_is h.1 h.2.1⟩

theorem dbl_is {e : Proj} {g : GProj} (h : e.Is g) : (dbl e).Is g.dbl := by
  have yp := feAdd_is (feSq_is h.2.1) (feSq_is h.1)
  have ym := feSub_is (feSq_is h.2.1) (feSq_is h.1)
  exact ⟨feSub_is (feSq_is (feAdd_is h.1 h.2.1)) yp, yp, ym, feSub_is (feSq2_is h.2.2) ym⟩

theorem addPN_is {e : Ext} {g : GExt} {n : PNiels} {m : GPNiels} (h : e.Is g) (k : n.Is m) :
    (addPN e n).Is (g.addPN m) := by
  have pp := feMul_is (feAdd_is h.2.1 h.1) k.1
  have mm := feMul_is (feSub_is h.2.1 h.1) k.2.1
  have tt := feMul_is h.2.2.2 k.2.2.2
  have zz := feMul_is h.2.2.1 k.2.2.1
  exact ⟨feSub_is pp mm, feAdd_is pp mm, feAdd_is (feAdd_is zz zz) tt, feSub_is (feAdd_is zz zz) tt⟩

theorem addAN_is {e : Ext} {g : GExt} {n : ANiels} {m : GANiels} (h : e.Is g) (k : n.Is m) :
    (addAN e n).Is (g.addAN m) := by
  have pp := feMul_is (feAdd_is h.2.1 h.1) k.1
  have mm := feMul_is (feSub_is h.2.1 h.1) k.2.1
  have tt := feMul_is h.2.2.2 k.2.2
  have zz := feAdd_is h.2.2.1 h.2.2.1
  exact ⟨feSub_is pp mm, feAdd_is pp mm, feAdd_is zz tt, feSub_is zz tt⟩

theorem subPN_is {e : Ext} {g : GExt} {n : PNiels} {m : GPNiels} (h : e.Is g) (k : n.Is m) :
    (subPN e n).Is (g.subPN m) := by
  have pm := feMul_is (feAdd_is h.2.1 h.1) k.2.1
  have mp := feMul_is (feSub_is h.2.1 h.1) k.1
  have tt := feMul_is h.2.2.2 k.2.2.2
  have zz := feMul_is h.2.2.1 k.2.2.1
  exact ⟨feSub_is pm mp, feAdd_is pm mp, feSub_is (feAdd_is zz zz) tt, feAdd_is (feAdd_is zz zz) tt⟩

theorem subAN_is {e : Ext} {g : GExt} {n : ANiels} {m : GANiels} (h : e.Is g) (k : n.Is m) :
    (subAN e n).Is (g.subAN m) := by
  have pm := feMul_is (feAdd_is h.2.1 h.1) k.2.1
  have mp := feMul_is (feSub_is h.2.1 h.1) k.1
  have tt := feMul_is h.2.2.2 k.2.2
  have zz := feAdd_is h.2.2.1 h.2.2.1
  exact ⟨feSub_is pm mp, feAdd_is pm mp, feSub_is zz tt, feAdd_is zz tt⟩

theorem negExt_is {e : Ext} {g : GExt} (h : e.Is g) : (negExt e).Is g.neg :=
  ⟨feNeg_is h.1, h.2.1, h.2.2.1, feNeg_is h.2.2.2⟩

theorem negPN_is {n : PNiels} {g : GPNiels} (h : n.Is g) : (negPN n).Is g.neg :=
  ⟨h.2.1, h.1, h.2.2.1, feNeg_is h.2.2.2⟩

theorem negAN_is {n : ANiels} {g : GANiels} (h : n.Is g) : (negAN n).Is g.neg := ⟨h.2.1, h.1, feNeg_is h.2.2⟩

theorem eadd_is {a b : Ext} {g k : GExt} (ha : a.Is g) (hb : b.Is k) : (eadd a b).Is (g.add k) :=
  c2e_is (addPN_is ha (e2pn_is hb))

theorem esub_is {a b : Ext} {g k : GExt} (ha : a.Is g) (hb : b.Is k) : (esub a b).Is (g.sub k) :=
  c2e_is (subPN_is ha (e2pn_is hb))

theorem edbl_is {a : Ext} {g : GExt} (ha : a.Is g) : (edbl a).Is g.dbl := c2e_is (dbl_is (e2p_is ha))

theorem mulcof_is {a : Ext} {g : GExt} (ha : a.Is g) : (mulcof a).Is g.mulcof :=
  c2e_is (dbl_is (c2p_is (dbl_is (c2p_is (dbl_is (e2p_is ha))))))

end Sys2Proof.Machine
end

