-- ==== Sys2Proof/Laws/Prime.lean ====
section
/-! SUPPORT. The field modulus is prime (00_scope.md R6, R8): a certificate after Pratt, one theorem per prime of it; and
facts of GF(p) from facts of natural numbers. Powers modulo a number are evaluated by `modPow`, which the kernel
computes. -/
namespace Sys2Proof.Machine

/-- `acc * b ^ e` modulo `m`, for `e` below `2 ^ fuel`. -/
def modPow (m : Nat) : (fuel b e acc : Nat) → Nat
  | 0, _, _, acc => acc % m
  | fuel + 1, b, e, acc => modPow m fuel (b * b % m) (e / 2) (if e % 2 = 1 then acc * b % m else acc)

theorem modPow_eq (m fuel b e acc : Nat) (he : e < 2 ^ fuel) : modPow m fuel b e acc = acc * b ^ e % m := by
  induction fuel generalizing b e acc with
  | zero => obtain rfl : e = 0 := by omega
            simp [modPow]
  | succ n ih =>
    rw [modPow, ih _ _ _ (by omega), Nat.mul_mod, ← Nat.pow_mod, ← pow_two, ← pow_mul]
    rcases Nat.mod_two_eq_zero_or_one e with h | h <;> simp only [h, if_true, reduceCtorEq, if_false]
    · rw [show 2 * (e / 2) = e by omega]; simp [Nat.mul_mod]
    · simp only [Nat.mod_mod, ← Nat.mul_mod, mul_assoc]
      rw [← pow_succ', show 2 * (e / 2) + 1 = e by omega]

/-- Lucas' test on a factorisation of `n − 1`. -/
def certified (n a : Nat) (fs : List (Nat × Nat)) : Bool :=
  1 < n && n < 2 ^ 256 && (fs.map fun q => q.1 ^ q.2).prod == n - 1 && modPow n 256 a (n - 1) 1 == 1 &&
    fs.all fun q => modPow n 256 a ((n - 1) / q.1) 1 != 1

theorem prime_of_certified (n a : Nat) (fs : List (Nat × Nat)) (h : certified n a fs = true)
    (hp : ∀ q ∈ fs, q.1.Prime) : n.Prime := by
  simp only [certified, Bool.and_eq_true, decide_eq_true_eq, beq_iff_eq, List.all_eq_true, bne_iff_ne] at h
  obtain ⟨⟨⟨⟨hn, hb⟩, hprod⟩, h1⟩, h2⟩ := h
  have key : ∀ k : Nat, ((a : ZMod n) ^ k = 1 ↔ a ^ k % n = 1) := fun k => by
    have := ZMod.natCast_eq_natCast_iff (a ^ k) 1 n
    rw [Nat.cast_pow, Nat.cast_one] at this
    rw [this, Nat.ModEq, Nat.mod_eq_of_lt hn]
  rw [modPow_eq _ _ _ _ _ (by omega), one_mul] at h1
  refine lucas_primality n (a : ZMod n) ((key _).2 h1) fun q hq hdvd => ?_
  rw [Ne, key]
  rw [← hprod] at hdvd
  obtain ⟨r, hr, hd⟩ := (Prime.dvd_prod_iff hq.prime).1 hdvd
  obtain ⟨f, hf, rfl⟩ := List.mem_map.1 hr
  obtain rfl := (Nat.prime_dvd_prime_iff_eq hq (hp f hf)).1 (hq.dvd_of_dvd_pow hd)
  have := h2 f hf
  rwa [modPow_eq _ _ _ _ _ (lt_of_le_of_lt (Nat.div_le_self _ _) (by omega)), one_mul] at this

theorem prime_2773320623 : Nat.Prime 2773320623 :=
  prime_of_certified _ 5 [(2, 1), (2437, 1), (569003, 1)] (by decide +kernel) (by norm_num)

theorem prime_72106336199 : Nat.Prime 72106336199 :=
  prime_of_certified _ 7 [(2, 1), (13, 1), (2773320623, 1)] (by decide +kernel)
    (by simpa using ⟨Nat.prime_two, by norm_num, prime_2773320623⟩)

theorem prime_1919519569386763 : Nat.Prime 1919519569386763 :=
  prime_of_certified _ 2 [(2, 1), (3, 1), (7, 1), (19, 1), (47, 2), (127, 1), (8574133, 1)] (by decide +kernel)
    (by norm_num)

theorem prime_31757755568855353 : Nat.Prime 31757755568855353 :=
  prime_of_certified _ 10 [(2, 3), (3, 1), (31, 1), (107, 1), (223, 1), (4153, 1), (430751, 1)] (by decide +kernel)
    (by norm_num)

theorem prime_75445702479781427272750846543864801 : Nat.Prime 75445702479781427272750846543864801 :=
  prime_of_certified _ 7 [(2, 5), (3, 2), (5, 2), (75707, 1), (72106336199, 1), (1919519569386763, 1)]
    (by decide +kernel) (by
      simpa using ⟨Nat.prime_two, Nat.prime_three, Nat.prime_five, by norm_num, prime_72106336199,
        prime_1919519569386763⟩)

theorem prime_large_factor :
    Nat.Prime 74058212732561358302231226437062788676166966415465897661863160754340907 :=
  prime_of_certified _ 2 [(2, 1), (3, 1), (353, 1), (57467, 1), (132049, 1), (1923133, 1), (31757755568855353, 1),
      (75445702479781427272750846543864801, 1)] (by decide +kernel)
    (by simpa using ⟨Nat.prime_two, Nat.prime_three, by norm_num, by norm_num, by norm_num, by norm_num,
      prime_31757755568855353, prime_75445702479781427272750846543864801⟩)

/-- `p` is prime: GF(p) is a field. -/
theorem p_prime : Nat.Prime p :=
  prime_of_certified _ 2 [(2, 2), (3, 1), (65147, 1),
      (74058212732561358302231226437062788676166966415465897661863160754340907, 1)] (by decide +kernel)
    (by simpa using ⟨Nat.prime_two, Nat.prime_three, by norm_num, prime_large_factor⟩)

/-! ### Facts of GF(p) from natural numbers -/

theorem gf_natCast_eq_iff (a b : Nat) : (a : GF) = b ↔ a % p = b % p := ZMod.natCast_eq_natCast_iff a b p

theorem gf_natCast_pow (a k : Nat) (hk : k < 2 ^ 256) : (a : GF) ^ k = (modPow p 256 a k 1 : Nat) := by
  rw [modPow_eq _ _ _ _ _ hk, one_mul, ← Nat.cast_pow, gf_natCast_eq_iff, Nat.mod_mod]

theorem Fe.gf_ne_zero_iff (x : Fe) : x.gf ≠ 0 ↔ x.fval ≠ 0 := by
  have := gf_natCast_eq_iff x.fval 0
  rw [Nat.cast_zero, Nat.zero_mod, Fe.fval, Nat.mod_mod] at this
  exact not_congr this

/-- Euler's criterion, one direction: a number whose power `(p − 1)/2` is −1 is no square. -/
theorem gf_not_square (a : Nat) (h : modPow p 256 a ((p - 1) / 2) 1 = p - 1) (r : GF) : r ^ 2 ≠ (a : GF) := by
  intro e
  have := Fact.mk p_prime
  have hp : (a : GF) ^ ((p - 1) / 2) = ((p - 1 : Nat) : GF) := by
    rw [gf_natCast_pow _ _ (by decide +kernel), h]
  rw [← e, ← pow_mul, show 2 * ((p - 1) / 2) = p - 1 by decide +kernel] at hp
  rcases eq_or_ne r 0 with rfl | hr
  · rw [zero_pow (by decide +kernel), ← Nat.cast_zero, gf_natCast_eq_iff] at hp
    exact absurd hp (by decide +kernel)
  · rw [ZMod.pow_card_sub_one_eq_one hr, ← Nat.cast_one, gf_natCast_eq_iff] at hp
    exact absurd hp (by decide +kernel)

end Sys2Proof.Machine
end

