-- ==== Sys2Proof/Laws/State.lean ====
section
/-! SUPPORT. One lemma per field and update of the state, each true by definition, and the reads of a register file
after a write of one register. -/
namespace Sys2Proof.Machine

/-! ### The fields after `State.writeF` -/

@[simp] theorem State.writeF_params (s : State) (n : RegNo) (v : Fe) : (s.writeF n v).params = s.params := rfl
@[simp] theorem State.writeF_F (s : State) (n : RegNo) (v : Fe) : (s.writeF n v).F = s.F.set n.toNat (some v) := rfl
@[simp] theorem State.writeF_S (s : State) (n : RegNo) (v : Fe) : (s.writeF n v).S = s.S := rfl
@[simp] theorem State.writeF_P (s : State) (n : RegNo) (v : Fe) : (s.writeF n v).P = s.P := rfl
@[simp] theorem State.writeF_C (s : State) (n : RegNo) (v : Fe) : (s.writeF n v).C = s.C := rfl
@[simp] theorem State.writeF_DG (s : State) (n : RegNo) (v : Fe) : (s.writeF n v).DG = s.DG := rfl
@[simp] theorem State.writeF_msm (s : State) (n : RegNo) (v : Fe) : (s.writeF n v).msm = s.msm := rfl
@[simp] theorem State.writeF_oram (s : State) (n : RegNo) (v : Fe) : (s.writeF n v).oram = s.oram := rfl
@[simp] theorem State.writeF_cmdidx (s : State) (n : RegNo) (v : Fe) : (s.writeF n v).cmdidx = s.cmdidx := rfl
@[simp] theorem State.writeF_fault (s : State) (n : RegNo) (v : Fe) : (s.writeF n v).fault = s.fault := rfl
@[simp] theorem State.writeF_faultcode (s : State) (n : RegNo) (v : Fe) : (s.writeF n v).faultcode = s.faultcode := rfl
@[simp] theorem State.writeF_faultcmd (s : State) (n : RegNo) (v : Fe) : (s.writeF n v).faultcmd = s.faultcmd := rfl
@[simp] theorem State.writeF_faultidx (s : State) (n : RegNo) (v : Fe) : (s.writeF n v).faultidx = s.faultidx := rfl
@[simp] theorem State.writeF_resetIn (s : State) (n : RegNo) (v : Fe) : (s.writeF n v).resetIn = s.resetIn := rfl
@[simp] theorem State.writeF_bus (s : State) (n : RegNo) (v : Fe) : (s.writeF n v).bus = s.bus := rfl
@[simp] theorem State.writeF_readLog (s : State) (n : RegNo) (v : Fe) : (s.writeF n v).readLog = s.readLog := rfl

/-! ### The fields after `State.writeS` -/

@[simp] theorem State.writeS_params (s : State) (n : RegNo) (v : Scalar) : (s.writeS n v).params = s.params := rfl
@[simp] theorem State.writeS_F (s : State) (n : RegNo) (v : Scalar) : (s.writeS n v).F = s.F := rfl
@[simp] theorem State.writeS_S (s : State) (n : RegNo) (v : Scalar) : (s.writeS n v).S = s.S.set n.toNat (some v) := rfl
@[simp] theorem State.writeS_P (s : State) (n : RegNo) (v : Scalar) : (s.writeS n v).P = s.P := rfl
@[simp] theorem State.writeS_C (s : State) (n : RegNo) (v : Scalar) : (s.writeS n v).C = s.C := rfl
@[simp] theorem State.writeS_DG (s : State) (n : RegNo) (v : Scalar) : (s.writeS n v).DG = s.DG := rfl
@[simp] theorem State.writeS_msm (s : State) (n : RegNo) (v : Scalar) : (s.writeS n v).msm = s.msm := rfl
@[simp] theorem State.writeS_oram (s : State) (n : RegNo) (v : Scalar) : (s.writeS n v).oram = s.oram := rfl
@[simp] theorem State.writeS_cmdidx (s : State) (n : RegNo) (v : Scalar) : (s.writeS n v).cmdidx = s.cmdidx := rfl
@[simp] theorem State.writeS_fault (s : State) (n : RegNo) (v : Scalar) : (s.writeS n v).fault = s.fault := rfl
@[simp] theorem State.writeS_faultcode (s : State) (n : RegNo) (v : Scalar) : (s.writeS n v).faultcode = s.faultcode := rfl
@[simp] theorem State.writeS_faultcmd (s : State) (n : RegNo) (v : Scalar) : (s.writeS n v).faultcmd = s.faultcmd := rfl
@[simp] theorem State.writeS_faultidx (s : State) (n : RegNo) (v : Scalar) : (s.writeS n v).faultidx = s.faultidx := rfl
@[simp] theorem State.writeS_resetIn (s : State) (n : RegNo) (v : Scalar) : (s.writeS n v).resetIn = s.resetIn := rfl
@[simp] theorem State.writeS_bus (s : State) (n : RegNo) (v : Scalar) : (s.writeS n v).bus = s.bus := rfl
@[simp] theorem State.writeS_readLog (s : State) (n : RegNo) (v : Scalar) : (s.writeS n v).readLog = s.readLog := rfl

/-! ### The fields after `State.setP` -/

@[simp] theorem State.setP_params (s : State) (n : RegNo) (v : Option Point) : (s.setP n v).params = s.params := rfl
@[simp] theorem State.setP_F (s : State) (n : RegNo) (v : Option Point) : (s.setP n v).F = s.F := rfl
@[simp] theorem State.setP_S (s : State) (n : RegNo) (v : Option Point) : (s.setP n v).S = s.S := rfl
@[simp] theorem State.setP_P (s : State) (n : RegNo) (v : Option Point) : (s.setP n v).P = s.P.set n.toNat v := rfl
@[simp] theorem State.setP_C (s : State) (n : RegNo) (v : Option Point) : (s.setP n v).C = s.C := rfl
@[simp] theorem State.setP_DG (s : State) (n : RegNo) (v : Option Point) : (s.setP n v).DG = s.DG := rfl
@[simp] theorem State.setP_msm (s : State) (n : RegNo) (v : Option Point) : (s.setP n v).msm = s.msm := rfl
@[simp] theorem State.setP_oram (s : State) (n : RegNo) (v : Option Point) : (s.setP n v).oram = s.oram := rfl
@[simp] theorem State.setP_cmdidx (s : State) (n : RegNo) (v : Option Point) : (s.setP n v).cmdidx = s.cmdidx := rfl
@[simp] theorem State.setP_fault (s : State) (n : RegNo) (v : Option Point) : (s.setP n v).fault = s.fault := rfl
@[simp] theorem State.setP_faultcode (s : State) (n : RegNo) (v : Option Point) : (s.setP n v).faultcode = s.faultcode := rfl
@[simp] theorem State.setP_faultcmd (s : State) (n : RegNo) (v : Option Point) : (s.setP n v).faultcmd = s.faultcmd := rfl
@[simp] theorem State.setP_faultidx (s : State) (n : RegNo) (v : Option Point) : (s.setP n v).faultidx = s.faultidx := rfl
@[simp] theorem State.setP_resetIn (s : State) (n : RegNo) (v : Option Point) : (s.setP n v).resetIn = s.resetIn := rfl
@[simp] theorem State.setP_bus (s : State) (n : RegNo) (v : Option Point) : (s.setP n v).bus = s.bus := rfl
@[simp] theorem State.setP_readLog (s : State) (n : RegNo) (v : Option Point) : (s.setP n v).readLog = s.readLog := rfl

/-! ### The fields after `State.writeP` -/

@[simp] theorem State.writeP_params (s : State) (n : RegNo) (v : Point) : (s.writeP n v).params = s.params := rfl
@[simp] theorem State.writeP_F (s : State) (n : RegNo) (v : Point) : (s.writeP n v).F = s.F := rfl
@[simp] theorem State.writeP_S (s : State) (n : RegNo) (v : Point) : (s.writeP n v).S = s.S := rfl
@[simp] theorem State.writeP_P (s : State) (n : RegNo) (v : Point) : (s.writeP n v).P = s.P.set n.toNat (some v) := rfl
@[simp] theorem State.writeP_C (s : State) (n : RegNo) (v : Point) : (s.writeP n v).C = s.C := rfl
@[simp] theorem State.writeP_DG (s : State) (n : RegNo) (v : Point) : (s.writeP n v).DG = s.DG := rfl
@[simp] theorem State.writeP_msm (s : State) (n : RegNo) (v : Point) : (s.writeP n v).msm = s.msm := rfl
@[simp] theorem State.writeP_oram (s : State) (n : RegNo) (v : Point) : (s.writeP n v).oram = s.oram := rfl
@[simp] theorem State.writeP_cmdidx (s : State) (n : RegNo) (v : Point) : (s.writeP n v).cmdidx = s.cmdidx := rfl
@[simp] theorem State.writeP_fault (s : State) (n : RegNo) (v : Point) : (s.writeP n v).fault = s.fault := rfl
@[simp] theorem State.writeP_faultcode (s : State) (n : RegNo) (v : Point) : (s.writeP n v).faultcode = s.faultcode := rfl
@[simp] theorem State.writeP_faultcmd (s : State) (n : RegNo) (v : Point) : (s.writeP n v).faultcmd = s.faultcmd := rfl
@[simp] theorem State.writeP_faultidx (s : State) (n : RegNo) (v : Point) : (s.writeP n v).faultidx = s.faultidx := rfl
@[simp] theorem State.writeP_resetIn (s : State) (n : RegNo) (v : Point) : (s.writeP n v).resetIn = s.resetIn := rfl
@[simp] theorem State.writeP_bus (s : State) (n : RegNo) (v : Point) : (s.writeP n v).bus = s.bus := rfl
@[simp] theorem State.writeP_readLog (s : State) (n : RegNo) (v : Point) : (s.writeP n v).readLog = s.readLog := rfl

/-! ### The fields after `State.writeC` -/

@[simp] theorem State.writeC_params (s : State) (n : RegNo) (v : Bool) : (s.writeC n v).params = s.params := rfl
@[simp] theorem State.writeC_F (s : State) (n : RegNo) (v : Bool) : (s.writeC n v).F = s.F := rfl
@[simp] theorem State.writeC_S (s : State) (n : RegNo) (v : Bool) : (s.writeC n v).S = s.S := rfl
@[simp] theorem State.writeC_P (s : State) (n : RegNo) (v : Bool) : (s.writeC n v).P = s.P := rfl
@[simp] theorem State.writeC_C (s : State) (n : RegNo) (v : Bool) : (s.writeC n v).C = s.C.set n.toNat (some v) := rfl
@[simp] theorem State.writeC_DG (s : State) (n : RegNo) (v : Bool) : (s.writeC n v).DG = s.DG := rfl
@[simp] theorem State.writeC_msm (s : State) (n : RegNo) (v : Bool) : (s.writeC n v).msm = s.msm := rfl
@[simp] theorem State.writeC_oram (s : State) (n : RegNo) (v : Bool) : (s.writeC n v).oram = s.oram := rfl
@[simp] theorem State.writeC_cmdidx (s : State) (n : RegNo) (v : Bool) : (s.writeC n v).cmdidx = s.cmdidx := rfl
@[simp] theorem State.writeC_fault (s : State) (n : RegNo) (v : Bool) : (s.writeC n v).fault = s.fault := rfl
@[simp] theorem State.writeC_faultcode (s : State) (n : RegNo) (v : Bool) : (s.writeC n v).faultcode = s.faultcode := rfl
@[simp] theorem State.writeC_faultcmd (s : State) (n : RegNo) (v : Bool) : (s.writeC n v).faultcmd = s.faultcmd := rfl
@[simp] theorem State.writeC_faultidx (s : State) (n : RegNo) (v : Bool) : (s.writeC n v).faultidx = s.faultidx := rfl
@[simp] theorem State.writeC_resetIn (s : State) (n : RegNo) (v : Bool) : (s.writeC n v).resetIn = s.resetIn := rfl
@[simp] theorem State.writeC_bus (s : State) (n : RegNo) (v : Bool) : (s.writeC n v).bus = s.bus := rfl
@[simp] theorem State.writeC_readLog (s : State) (n : RegNo) (v : Bool) : (s.writeC n v).readLog = s.readLog := rfl

/-! ### The fields after `State.writeDG` -/

@[simp] theorem State.writeDG_params (s : State) (n : RegNo) (v : Digits) : (s.writeDG n v).params = s.params := rfl
@[simp] theorem State.writeDG_F (s : State) (n : RegNo) (v : Digits) : (s.writeDG n v).F = s.F := rfl
@[simp] theorem State.writeDG_S (s : State) (n : RegNo) (v : Digits) : (s.writeDG n v).S = s.S := rfl
@[simp] theorem State.writeDG_P (s : State) (n : RegNo) (v : Digits) : (s.writeDG n v).P = s.P := rfl
@[simp] theorem State.writeDG_C (s : State) (n : RegNo) (v : Digits) : (s.writeDG n v).C = s.C := rfl
@[simp] theorem State.writeDG_DG (s : State) (n : RegNo) (v : Digits) : (s.writeDG n v).DG = s.DG.set n.toNat (some v) := rfl
@[simp] theorem State.writeDG_msm (s : State) (n : RegNo) (v : Digits) : (s.writeDG n v).msm = s.msm := rfl
@[simp] theorem State.writeDG_oram (s : State) (n : RegNo) (v : Digits) : (s.writeDG n v).oram = s.oram := rfl
@[simp] theorem State.writeDG_cmdidx (s : State) (n : RegNo) (v : Digits) : (s.writeDG n v).cmdidx = s.cmdidx := rfl
@[simp] theorem State.writeDG_fault (s : State) (n : RegNo) (v : Digits) : (s.writeDG n v).fault = s.fault := rfl
@[simp] theorem State.writeDG_faultcode (s : State) (n : RegNo) (v : Digits) : (s.writeDG n v).faultcode = s.faultcode := rfl
@[simp] theorem State.writeDG_faultcmd (s : State) (n : RegNo) (v : Digits) : (s.writeDG n v).faultcmd = s.faultcmd := rfl
@[simp] theorem State.writeDG_faultidx (s : State) (n : RegNo) (v : Digits) : (s.writeDG n v).faultidx = s.faultidx := rfl
@[simp] theorem State.writeDG_resetIn (s : State) (n : RegNo) (v : Digits) : (s.writeDG n v).resetIn = s.resetIn := rfl
@[simp] theorem State.writeDG_bus (s : State) (n : RegNo) (v : Digits) : (s.writeDG n v).bus = s.bus := rfl
@[simp] theorem State.writeDG_readLog (s : State) (n : RegNo) (v : Digits) : (s.writeDG n v).readLog = s.readLog := rfl

/-! ### The fields after `State.writeSlots` -/

@[simp] theorem State.writeSlots_params (s : State) (i : Imm) (v : List Byte) : (s.writeSlots i v).params = s.params := rfl
@[simp] theorem State.writeSlots_F (s : State) (i : Imm) (v : List Byte) : (s.writeSlots i v).F = s.F := rfl
@[simp] theorem State.writeSlots_S (s : State) (i : Imm) (v : List Byte) : (s.writeSlots i v).S = s.S := rfl
@[simp] theorem State.writeSlots_P (s : State) (i : Imm) (v : List Byte) : (s.writeSlots i v).P = s.P := rfl
@[simp] theorem State.writeSlots_C (s : State) (i : Imm) (v : List Byte) : (s.writeSlots i v).C = s.C := rfl
@[simp] theorem State.writeSlots_DG (s : State) (i : Imm) (v : List Byte) : (s.writeSlots i v).DG = s.DG := rfl
@[simp] theorem State.writeSlots_msm (s : State) (i : Imm) (v : List Byte) : (s.writeSlots i v).msm = s.msm := rfl
@[simp] theorem State.writeSlots_oram (s : State) (i : Imm) (v : List Byte) : (s.writeSlots i v).oram = memWrite s.oram (slotAddr i) v := rfl
@[simp] theorem State.writeSlots_cmdidx (s : State) (i : Imm) (v : List Byte) : (s.writeSlots i v).cmdidx = s.cmdidx := rfl
@[simp] theorem State.writeSlots_fault (s : State) (i : Imm) (v : List Byte) : (s.writeSlots i v).fault = s.fault := rfl
@[simp] theorem State.writeSlots_faultcode (s : State) (i : Imm) (v : List Byte) : (s.writeSlots i v).faultcode = s.faultcode := rfl
@[simp] theorem State.writeSlots_faultcmd (s : State) (i : Imm) (v : List Byte) : (s.writeSlots i v).faultcmd = s.faultcmd := rfl
@[simp] theorem State.writeSlots_faultidx (s : State) (i : Imm) (v : List Byte) : (s.writeSlots i v).faultidx = s.faultidx := rfl
@[simp] theorem State.writeSlots_resetIn (s : State) (i : Imm) (v : List Byte) : (s.writeSlots i v).resetIn = s.resetIn := rfl
@[simp] theorem State.writeSlots_bus (s : State) (i : Imm) (v : List Byte) : (s.writeSlots i v).bus = s.bus := rfl
@[simp] theorem State.writeSlots_readLog (s : State) (i : Imm) (v : List Byte) : (s.writeSlots i v).readLog = s.readLog := rfl

/-! ### The fields after `State.retire` -/

@[simp] theorem State.retire_params (s : State) : s.retire.params = s.params := rfl
@[simp] theorem State.retire_F (s : State) : s.retire.F = s.F := rfl
@[simp] theorem State.retire_S (s : State) : s.retire.S = s.S := rfl
@[simp] theorem State.retire_P (s : State) : s.retire.P = s.P := rfl
@[simp] theorem State.retire_C (s : State) : s.retire.C = s.C := rfl
@[simp] theorem State.retire_DG (s : State) : s.retire.DG = s.DG := rfl
@[simp] theorem State.retire_msm (s : State) : s.retire.msm = s.msm := rfl
@[simp] theorem State.retire_oram (s : State) : s.retire.oram = s.oram := rfl
@[simp] theorem State.retire_cmdidx (s : State) : s.retire.cmdidx = s.cmdidx + 1 := rfl
@[simp] theorem State.retire_fault (s : State) : s.retire.fault = s.fault := rfl
@[simp] theorem State.retire_faultcode (s : State) : s.retire.faultcode = s.faultcode := rfl
@[simp] theorem State.retire_faultcmd (s : State) : s.retire.faultcmd = s.faultcmd := rfl
@[simp] theorem State.retire_faultidx (s : State) : s.retire.faultidx = s.faultidx := rfl
@[simp] theorem State.retire_resetIn (s : State) : s.retire.resetIn = s.resetIn := rfl
@[simp] theorem State.retire_bus (s : State) : s.retire.bus = s.bus := rfl
@[simp] theorem State.retire_readLog (s : State) : s.retire.readLog = s.readLog := rfl

/-! ### The fields after `State.takeFault` -/

@[simp] theorem State.takeFault_params (s : State) (k : FaultCode) (w : Word) : (s.takeFault k w).params = s.params := rfl
@[simp] theorem State.takeFault_F (s : State) (k : FaultCode) (w : Word) : (s.takeFault k w).F = s.F := rfl
@[simp] theorem State.takeFault_S (s : State) (k : FaultCode) (w : Word) : (s.takeFault k w).S = s.S := rfl
@[simp] theorem State.takeFault_P (s : State) (k : FaultCode) (w : Word) : (s.takeFault k w).P = s.P := rfl
@[simp] theorem State.takeFault_C (s : State) (k : FaultCode) (w : Word) : (s.takeFault k w).C = s.C := rfl
@[simp] theorem State.takeFault_DG (s : State) (k : FaultCode) (w : Word) : (s.takeFault k w).DG = s.DG := rfl
@[simp] theorem State.takeFault_msm (s : State) (k : FaultCode) (w : Word) : (s.takeFault k w).msm = s.msm := rfl
@[simp] theorem State.takeFault_oram (s : State) (k : FaultCode) (w : Word) : (s.takeFault k w).oram = s.oram := rfl
@[simp] theorem State.takeFault_cmdidx (s : State) (k : FaultCode) (w : Word) : (s.takeFault k w).cmdidx = s.cmdidx := rfl
@[simp] theorem State.takeFault_fault (s : State) (k : FaultCode) (w : Word) : (s.takeFault k w).fault = true := rfl
@[simp] theorem State.takeFault_faultcode (s : State) (k : FaultCode) (w : Word) : (s.takeFault k w).faultcode = k.code := rfl
@[simp] theorem State.takeFault_faultcmd (s : State) (k : FaultCode) (w : Word) : (s.takeFault k w).faultcmd = w := rfl
@[simp] theorem State.takeFault_faultidx (s : State) (k : FaultCode) (w : Word) : (s.takeFault k w).faultidx = s.cmdidx := rfl
@[simp] theorem State.takeFault_resetIn (s : State) (k : FaultCode) (w : Word) : (s.takeFault k w).resetIn = s.resetIn := rfl
@[simp] theorem State.takeFault_bus (s : State) (k : FaultCode) (w : Word) : (s.takeFault k w).bus = s.bus := rfl
@[simp] theorem State.takeFault_readLog (s : State) (k : FaultCode) (w : Word) : (s.takeFault k w).readLog = s.readLog := rfl

/-! ### The fields after `State.resetBlock` -/

@[simp] theorem State.resetBlock_params (s : State) : s.resetBlock.params = s.params := rfl
@[simp] theorem State.resetBlock_F (s : State) : s.resetBlock.F = List.replicate s.params.nf none := rfl
@[simp] theorem State.resetBlock_S (s : State) : s.resetBlock.S = List.replicate s.params.ns none := rfl
@[simp] theorem State.resetBlock_P (s : State) : s.resetBlock.P = List.replicate s.params.np none := rfl
@[simp] theorem State.resetBlock_C (s : State) : s.resetBlock.C = List.replicate s.params.nc none := rfl
@[simp] theorem State.resetBlock_DG (s : State) : s.resetBlock.DG = List.replicate s.params.ndg none := rfl
@[simp] theorem State.resetBlock_msm (s : State) : s.resetBlock.msm = [] := rfl
@[simp] theorem State.resetBlock_oram (s : State) : s.resetBlock.oram = [] := rfl
@[simp] theorem State.resetBlock_cmdidx (s : State) : s.resetBlock.cmdidx = 0 := rfl
@[simp] theorem State.resetBlock_fault (s : State) : s.resetBlock.fault = false := rfl
@[simp] theorem State.resetBlock_faultcode (s : State) : s.resetBlock.faultcode = 0 := rfl
@[simp] theorem State.resetBlock_faultcmd (s : State) : s.resetBlock.faultcmd = 0 := rfl
@[simp] theorem State.resetBlock_faultidx (s : State) : s.resetBlock.faultidx = 0 := rfl
@[simp] theorem State.resetBlock_resetIn (s : State) : s.resetBlock.resetIn = s.resetIn := rfl
@[simp] theorem State.resetBlock_bus (s : State) : s.resetBlock.bus = s.bus := rfl
@[simp] theorem State.resetBlock_readLog (s : State) : s.resetBlock.readLog = s.readLog := rfl

/-! ### Reads after writes -/

/-- A register that exists reads as what was written to it. -/
theorem State.readF_writeF_self (s : State) (n : RegNo) (v : Fe) (h : n.toNat < s.F.length) :
    (s.writeF n v).readF n = some v := by
  simp [State.readF, List.getD_eq_getElem?_getD, h]

/-- A write leaves the other registers of its file alone (10_state.md R31). -/
theorem State.readF_writeF_ne (s : State) (n m : RegNo) (v : Fe) (h : m ≠ n) :
    (s.writeF n v).readF m = s.readF m := by
  have : n.toNat ≠ m.toNat := fun e => h (BitVec.eq_of_toNat_eq e.symm)
  simp [State.readF, List.getD_eq_getElem?_getD, List.getElem?_set_ne this]

/-- A register that exists reads as what was written to it. -/
theorem State.readS_writeS_self (s : State) (n : RegNo) (v : Scalar) (h : n.toNat < s.S.length) :
    (s.writeS n v).readS n = some v := by
  simp [State.readS, List.getD_eq_getElem?_getD, h]

/-- A write leaves the other registers of its file alone (10_state.md R31). -/
theorem State.readS_writeS_ne (s : State) (n m : RegNo) (v : Scalar) (h : m ≠ n) :
    (s.writeS n v).readS m = s.readS m := by
  have : n.toNat ≠ m.toNat := fun e => h (BitVec.eq_of_toNat_eq e.symm)
  simp [State.readS, List.getD_eq_getElem?_getD, List.getElem?_set_ne this]

/-- A register that exists reads as what was written to it. -/
theorem State.readP_writeP_self (s : State) (n : RegNo) (v : Point) (h : n.toNat < s.P.length) :
    (s.writeP n v).readP n = some v := by
  simp [State.readP, List.getD_eq_getElem?_getD, h]

/-- A write leaves the other registers of its file alone (10_state.md R31). -/
theorem State.readP_writeP_ne (s : State) (n m : RegNo) (v : Point) (h : m ≠ n) :
    (s.writeP n v).readP m = s.readP m := by
  have : n.toNat ≠ m.toNat := fun e => h (BitVec.eq_of_toNat_eq e.symm)
  simp [State.readP, List.getD_eq_getElem?_getD, List.getElem?_set_ne this]

/-- A register that exists reads as what was written to it. -/
theorem State.readC_writeC_self (s : State) (n : RegNo) (v : Bool) (h : n.toNat < s.C.length) :
    (s.writeC n v).readC n = some v := by
  simp [State.readC, List.getD_eq_getElem?_getD, h]

/-- A write leaves the other registers of its file alone (10_state.md R31). -/
theorem State.readC_writeC_ne (s : State) (n m : RegNo) (v : Bool) (h : m ≠ n) :
    (s.writeC n v).readC m = s.readC m := by
  have : n.toNat ≠ m.toNat := fun e => h (BitVec.eq_of_toNat_eq e.symm)
  simp [State.readC, List.getD_eq_getElem?_getD, List.getElem?_set_ne this]

/-- A register that exists reads as what was written to it. -/
theorem State.readDG_writeDG_self (s : State) (n : RegNo) (v : Digits) (h : n.toNat < s.DG.length) :
    (s.writeDG n v).readDG n = some v := by
  simp [State.readDG, List.getD_eq_getElem?_getD, h]

/-- A write leaves the other registers of its file alone (10_state.md R31). -/
theorem State.readDG_writeDG_ne (s : State) (n m : RegNo) (v : Digits) (h : m ≠ n) :
    (s.writeDG n v).readDG m = s.readDG m := by
  have : n.toNat ≠ m.toNat := fun e => h (BitVec.eq_of_toNat_eq e.symm)
  simp [State.readDG, List.getD_eq_getElem?_getD, List.getElem?_set_ne this]

@[simp] theorem State.readS_writeF (s : State) (n m : RegNo) (v : Fe) : (s.writeF n v).readS m = s.readS m := rfl
@[simp] theorem State.readP_writeF (s : State) (n m : RegNo) (v : Fe) : (s.writeF n v).readP m = s.readP m := rfl
@[simp] theorem State.readC_writeF (s : State) (n m : RegNo) (v : Fe) : (s.writeF n v).readC m = s.readC m := rfl
@[simp] theorem State.readDG_writeF (s : State) (n m : RegNo) (v : Fe) : (s.writeF n v).readDG m = s.readDG m := rfl
@[simp] theorem State.readF_writeS (s : State) (n m : RegNo) (v : Scalar) : (s.writeS n v).readF m = s.readF m := rfl
@[simp] theorem State.readP_writeS (s : State) (n m : RegNo) (v : Scalar) : (s.writeS n v).readP m = s.readP m := rfl
@[simp] theorem State.readC_writeS (s : State) (n m : RegNo) (v : Scalar) : (s.writeS n v).readC m = s.readC m := rfl
@[simp] theorem State.readDG_writeS (s : State) (n m : RegNo) (v : Scalar) : (s.writeS n v).readDG m = s.readDG m := rfl
@[simp] theorem State.readF_setP (s : State) (n m : RegNo) (v : Option Point) : (s.setP n v).readF m = s.readF m := rfl
@[simp] theorem State.readS_setP (s : State) (n m : RegNo) (v : Option Point) : (s.setP n v).readS m = s.readS m := rfl
@[simp] theorem State.readC_setP (s : State) (n m : RegNo) (v : Option Point) : (s.setP n v).readC m = s.readC m := rfl
@[simp] theorem State.readDG_setP (s : State) (n m : RegNo) (v : Option Point) : (s.setP n v).readDG m = s.readDG m := rfl
@[simp] theorem State.readF_writeP (s : State) (n m : RegNo) (v : Point) : (s.writeP n v).readF m = s.readF m := rfl
@[simp] theorem State.readS_writeP (s : State) (n m : RegNo) (v : Point) : (s.writeP n v).readS m = s.readS m := rfl
@[simp] theorem State.readC_writeP (s : State) (n m : RegNo) (v : Point) : (s.writeP n v).readC m = s.readC m := rfl
@[simp] theorem State.readDG_writeP (s : State) (n m : RegNo) (v : Point) : (s.writeP n v).readDG m = s.readDG m := rfl
@[simp] theorem State.readF_writeC (s : State) (n m : RegNo) (v : Bool) : (s.writeC n v).readF m = s.readF m := rfl
@[simp] theorem State.readS_writeC (s : State) (n m : RegNo) (v : Bool) : (s.writeC n v).readS m = s.readS m := rfl
@[simp] theorem State.readP_writeC (s : State) (n m : RegNo) (v : Bool) : (s.writeC n v).readP m = s.readP m := rfl
@[simp] theorem State.readDG_writeC (s : State) (n m : RegNo) (v : Bool) : (s.writeC n v).readDG m = s.readDG m := rfl
@[simp] theorem State.readF_writeDG (s : State) (n m : RegNo) (v : Digits) : (s.writeDG n v).readF m = s.readF m := rfl
@[simp] theorem State.readS_writeDG (s : State) (n m : RegNo) (v : Digits) : (s.writeDG n v).readS m = s.readS m := rfl
@[simp] theorem State.readP_writeDG (s : State) (n m : RegNo) (v : Digits) : (s.writeDG n v).readP m = s.readP m := rfl
@[simp] theorem State.readC_writeDG (s : State) (n m : RegNo) (v : Digits) : (s.writeDG n v).readC m = s.readC m := rfl
@[simp] theorem State.readF_writeSlots (s : State) (i : Imm) (v : List Byte) (m : RegNo) :
    (s.writeSlots i v).readF m = s.readF m := rfl
@[simp] theorem State.readF_retire (s : State) (m : RegNo) : s.retire.readF m = s.readF m := rfl
@[simp] theorem State.readF_takeFault (s : State) (k : FaultCode) (w : Word) (m : RegNo) :
    (s.takeFault k w).readF m = s.readF m := rfl
@[simp] theorem State.readS_writeSlots (s : State) (i : Imm) (v : List Byte) (m : RegNo) :
    (s.writeSlots i v).readS m = s.readS m := rfl
@[simp] theorem State.readS_retire (s : State) (m : RegNo) : s.retire.readS m = s.readS m := rfl
@[simp] theorem State.readS_takeFault (s : State) (k : FaultCode) (w : Word) (m : RegNo) :
    (s.takeFault k w).readS m = s.readS m := rfl
@[simp] theorem State.readP_writeSlots (s : State) (i : Imm) (v : List Byte) (m : RegNo) :
    (s.writeSlots i v).readP m = s.readP m := rfl
@[simp] theorem State.readP_retire (s : State) (m : RegNo) : s.retire.readP m = s.readP m := rfl
@[simp] theorem State.readP_takeFault (s : State) (k : FaultCode) (w : Word) (m : RegNo) :
    (s.takeFault k w).readP m = s.readP m := rfl
@[simp] theorem State.readC_writeSlots (s : State) (i : Imm) (v : List Byte) (m : RegNo) :
    (s.writeSlots i v).readC m = s.readC m := rfl
@[simp] theorem State.readC_retire (s : State) (m : RegNo) : s.retire.readC m = s.readC m := rfl
@[simp] theorem State.readC_takeFault (s : State) (k : FaultCode) (w : Word) (m : RegNo) :
    (s.takeFault k w).readC m = s.readC m := rfl
@[simp] theorem State.readDG_writeSlots (s : State) (i : Imm) (v : List Byte) (m : RegNo) :
    (s.writeSlots i v).readDG m = s.readDG m := rfl
@[simp] theorem State.readDG_retire (s : State) (m : RegNo) : s.retire.readDG m = s.readDG m := rfl
@[simp] theorem State.readDG_takeFault (s : State) (k : FaultCode) (w : Word) (m : RegNo) :
    (s.takeFault k w).readDG m = s.readDG m := rfl

end Sys2Proof.Machine
end

