-- ==== Sys2Proof/Tests/Slice0.lean ====
section
/-! SUPPORT. Tests: the checks of well-formedness, decoding, one step of every command on a small state with the result
the spec's examples and vectors give (or a calculation by hand from the rule), and for every statement with
hypotheses a witness that they can be met together. -/
namespace Sys2Proof.Machine.Tests

-- One theorem after the other: every test has the kernel compute, and many at once take much memory.
set_option Elab.async false

/-! ### Small states -/

/-- A field register's content from an integer. -/
def fe (n : Nat) : Fe := Fe.ofValue n

/-- An `EXT` content from its components. -/
def extOf (x y z t : Nat) : Ext := ⟨fe x, fe y, fe z, fe t⟩

/-- The `EXT` content of an affine point. -/
def pointOf (x y : Nat) : Point := .ext (extOf x y 1 (x * y % p))

/-- The basepoint, from the coordinates of 43_point.md R262. -/
def pointB : Point :=
  pointOf 15112221349535400772501151409588531511454012693041857206046113283949847762202
    46316835694926478169428394003475163141307993866256225615783033603165251855960

/-- The identity. -/
def pointI : Point := .ext (extOf 0 1 1 0)

/-- A register file of `n` registers whose first ones hold values. -/
def fileOf {α : Type} (n : Nat) (vs : List α) : List (Option α) := (vs.map some ++ List.replicate n none).take n

/-- A memory that holds an integer in a slot, and 0 elsewhere. -/
def slot (k v : Nat) : Memory := memWrite [] (32 * k) (leBytes 32 v)

/-- The reset state with the first registers of the files and the memory given. -/
def stateOf (f : List Nat := []) (s : List Nat := []) (q : List Point := []) (c : List Bool := []) (m : Memory := []) :
    State :=
  { State.reset with
    F := fileOf 16 (f.map fe), S := fileOf 8 (s.map (BitVec.ofNat 256)), P := fileOf 8 q, C := fileOf 8 c, oram := m }

/-- A state with the radix-16 digits of 248 in `DG0` (95_test_vectors.md D1). -/
def withDigits : State :=
  { State.reset with DG := [some ⟨64, [0xF8, 0, 1] ++ List.replicate 253 0⟩, none] }

/-- A state with the pairs (2, B) and (3, 2B) in the list. -/
def withPairs : State :=
  { State.reset with
    msm := [⟨2, extBase⟩,
      ⟨3, extOf 24727413235106541002554574571675588834622768167397638456726423682521233608206
        15549675580280190176352668710449542251549572066445060580507079593062643049417 1
        16552979481334663544878610556091376071931149008662153799327195285289362371585⟩] }

/-! ### Observations -/

/-- Whether the step that runs a command word answers a next state with a property. -/
def runs (s : State) (w : Nat) (ok : State → Bool) : Bool :=
  match step (s.withFetchWord 32 w) with
  | .next t => ok t
  | .fault _ => false
  | .refused _ => false

/-- Whether all of a list of checks hold. -/
def allOf (checks : List Bool) : Bool := checks.all id

/-- The value of a field register. -/
def fieldAt (s : State) (n : RegNo) : Option Nat := (s.readF n).map Fe.fval

/-- The integer in a slot. -/
def slotAt (s : State) (k : Nat) : Nat := le (memRead s.oram (32 * k) 32)

/-- The compressed form of an `EXT` register, as an integer. -/
def compressedAt (s : State) (n : RegNo) : Option Nat :=
  match s.readP n with
  | some (.ext e) => some (le (compress e))
  | _ => none

/-- The values of the components of a point register. -/
def componentsAt (s : State) (n : RegNo) : Option (List Nat) :=
  match s.readP n with
  | some (.ext e) => some [e.X.fval, e.Y.fval, e.Z.fval, e.T.fval]
  | some (.proj e) => some [e.X.fval, e.Y.fval, e.Z.fval]
  | some (.compl e) => some [e.X.fval, e.Y.fval, e.Z.fval, e.T.fval]
  | some (.pniels e) => some [e.YpX.fval, e.YmX.fval, e.Z.fval, e.T2d.fval]
  | some (.aniels e) => some [e.ypx.fval, e.ymx.fval, e.xy2d.fval]
  | none => none

/-- The digit count of a buffer and its digits that are not 0, each with its index. -/
def digitsAt (s : State) (n : RegNo) : Option (Nat × List (Nat × Int)) :=
  (s.readDG n).map fun g =>
    (g.len, (g.dig.zipIdx.filter fun d => d.1 != 0).map fun d => (d.2, d.1.toInt))

/-- Whether every word decodes to its command and is the word of that command. -/
def decodesTo (rows : List (Nat × Instr)) : Bool :=
  rows.all fun r => decodeTableWord 32 r.1 == some r.2 && (encode r.2).toNat == r.1

/-! ### Well-formedness: an ill-formed command for each check -/

/-- Whether the checks refuse a command whose word decodes to nothing either, with the fault named. -/
def illFormed (k : FaultCode) (i : Instr) : Bool :=
  !i.wellFormed Params.default && i.check Params.default == some k && decodeTableWord 32 (encode i).toNat == none

theorem test_illFormed_registers : ([.feMov 16 0, .feMov 0 16, .feAdd 0 0 16, .scMov 8 0, .scMov 0 8, .scAdd 0 0 8,
    .ptMov 8 0, .ptMov 0 8, .ptEadd 0 0 8, .chNot 8 0, .chNot 0 8, .chAnd 0 0 8, .scRadix16 2 0, .dgSt 2 0,
    .feCsel 0 0 0 8, .ptDsmb 0 0 0 8] : List Instr).all (illFormed .illegalField) = true := by decide +kernel

theorem test_illFormed_immediates : ([.chSet 0 2, .feConst 0 8, .fePow2k 0 0 0, .scRadix2w 0 0 3, .scRadix2w 0 0 9,
    .scNaf 0 0 1, .scNaf 0 0 9, .mtoe 0 0 2] : List Instr).all (illFormed .illegalField) = true := by decide +kernel

theorem test_illFormed_distinct : illFormed .illegalField (.fePow22501 1 1 0) = true := by decide +kernel

theorem test_illFormed_slots : ([.feLd 0 64, .feSt 0 64, .scLd 0 64, .scLdw 0 63, .scSt 0 64, .dgSt 0 57,
    .ptDecomp 0 0 64, .ptComp 0 64] : List Instr).all (illFormed .slotRange) = true := by decide +kernel

theorem test_wellFormed_edges : ([.feMov 15 15, .scMov 7 7, .ptMov 7 7, .chNot 7 7, .scRadix16 1 7, .chSet 0 1,
    .feConst 0 7, .fePow2k 0 0 1, .fePow2k 0 0 4095, .scRadix2w 0 0 4, .scRadix2w 0 0 8, .scNaf 0 0 2, .scNaf 0 0 8,
    .mtoe 0 0 1, .feLd 0 63, .scLdw 0 62, .dgSt 0 56, .fePow22501 1 0 1] : List Instr).all
      (Instr.wellFormed Params.default) = true := by decide +kernel

/-! ### Decoding: for every command a word the spec writes out, and a word made from its encoding table with a value
of its own in every field -/

theorem test_decode_system : decodesTo [
    (0x01000000, .nop), (0x01000000, .nop), (0x080C0001, .chSet 3 1), (0x081C0000, .chSet 7 0),
    (0x09040000, .chNot 1 0), (0x091C5000, .chNot 7 5), (0x0A080040, .chAnd 2 0 1), (0x0A1C50C0, .chAnd 7 5 3),
    (0x0B080040, .chOr 2 0 1), (0x0B1C50C0, .chOr 7 5 3), (0x0C080040, .chXor 2 0 1), (0x0C1C50C0, .chXor 7 5 3)] = true := by
  decide +kernel

theorem test_decode_field_a : decodesTo [
    (0x10040002, .feLd 1 2), (0x103C0029, .feLd 15 41), (0x11001003, .feSt 1 3), (0x1100D029, .feSt 13 41),
    (0x12000005, .feConst 0 5), (0x123C0006, .feConst 15 6), (0x13081000, .feMov 2 1),
    (0x133CD000, .feMov 15 13), (0x14080040, .feAdd 2 0 1), (0x143CD2C0, .feAdd 15 13 11),
    (0x15080040, .feSub 2 0 1), (0x153CD2C0, .feSub 15 13 11), (0x16040000, .feNeg 1 0),
    (0x163CD000, .feNeg 15 13), (0x170C1080, .feMul 3 1 2), (0x173CD2C0, .feMul 15 13 11),
    (0x18040000, .feSq 1 0), (0x183CD000, .feSq 15 13), (0x19040000, .feSq2 1 0), (0x193CD000, .feSq2 15 13),
    (0x1A040005, .fePow2k 1 0 5), (0x1A3CDABC, .fePow2k 15 13 2748)] = true := by
  decide +kernel

theorem test_decode_field_b : decodesTo [
    (0x1B040000, .feInv 1 0), (0x1B3CD000, .feInv 15 13), (0x1C040000, .fePowp58 1 0),
    (0x1C3CD000, .fePowp58 15 13), (0x1D042000, .fePow22501 1 2 0), (0x1D3CD2C0, .fePow22501 15 13 11),
    (0x1E080040, .feSqrtri 2 0 1 0), (0x1E3CD2C2, .feSqrtri 15 13 11 2), (0x1F040000, .feRed 1 0),
    (0x1F3CD000, .feRed 15 13), (0x20080041, .feCsel 2 0 1 1), (0x203CD2C2, .feCsel 15 13 11 2),
    (0x21080001, .feCneg 2 1), (0x213C0002, .feCneg 15 2), (0x22080001, .feCassign 2 0 1),
    (0x223CD002, .feCassign 15 13 2), (0x23000040, .feEq 0 0 1), (0x231CD2C0, .feEq 7 13 11),
    (0x24001000, .feIsneg 0 1), (0x241CD000, .feIsneg 7 13), (0x25001000, .feIszero 0 1),
    (0x251CD000, .feIszero 7 13)] = true := by
  decide +kernel

theorem test_decode_scalar : decodesTo [
    (0x30040004, .scLd 1 4), (0x301C0029, .scLd 7 41), (0x31080006, .scLdw 2 6), (0x311C003E, .scLdw 7 62),
    (0x32002008, .scSt 2 8), (0x32005029, .scSt 5 41), (0x330C2000, .scMov 3 2), (0x331C5000, .scMov 7 5),
    (0x34080040, .scAdd 2 0 1), (0x341C50C0, .scAdd 7 5 3), (0x35080040, .scSub 2 0 1),
    (0x351C50C0, .scSub 7 5 3), (0x36080040, .scMul 2 0 1), (0x361C50C0, .scMul 7 5 3),
    (0x37040000, .scNeg 1 0), (0x371C5000, .scNeg 7 5), (0x38040000, .scRed 1 0), (0x381C5000, .scRed 7 5),
    (0x39000000, .scIscanon 0 0), (0x391C5000, .scIscanon 7 5), (0x3A080040, .scMmul 2 0 1),
    (0x3A1C50C0, .scMmul 7 5 3), (0x3B040000, .scTomont 1 0), (0x3B1C5000, .scTomont 7 5),
    (0x3C040000, .scFrommont 1 0), (0x3C1C5000, .scFrommont 7 5), (0x40000000, .scRadix16 0 0),
    (0x40045000, .scRadix16 1 5), (0x41040008, .scRadix2w 1 0 8), (0x41045006, .scRadix2w 1 5 6),
    (0x42000005, .scNaf 0 0 5), (0x42045007, .scNaf 1 5 7), (0x43000010, .dgSt 0 16), (0x43000029, .dgSt 0 41)] = true := by
  decide +kernel

theorem test_decode_point_a : decodesTo [
    (0x50000000, .ptIdent 0), (0x501C0000, .ptIdent 7), (0x51000000, .ptBase 0), (0x511C0000, .ptBase 7),
    (0x52040000, .ptMov 1 0), (0x521C5000, .ptMov 7 5), (0x53040003, .ptDecomp 1 0 3),
    (0x531C5029, .ptDecomp 7 5 41), (0x54001001, .ptComp 1 1), (0x54005029, .ptComp 5 41),
    (0x55040000, .ptE2p 1 0), (0x551C5000, .ptE2p 7 5), (0x56080000, .ptE2pn 2 0), (0x561C5000, .ptE2pn 7 5),
    (0x57080000, .ptE2an 2 0), (0x571C5000, .ptE2an 7 5), (0x58001000, .ptP2e 0 1), (0x581C5000, .ptP2e 7 5),
    (0x59043000, .ptC2p 1 3), (0x591C5000, .ptC2p 7 5), (0x5A003000, .ptC2e 0 3), (0x5A1C5000, .ptC2e 7 5),
    (0x5B0C1000, .ptDbl 3 1), (0x5B1C5000, .ptDbl 7 5)] = true := by
  decide +kernel

theorem test_decode_point_b : decodesTo [
    (0x5C0C0080, .ptAdd 3 0 2), (0x5C1C50C0, .ptAdd 7 5 3), (0x5D0C0080, .ptSub 3 0 2),
    (0x5D1C50C0, .ptSub 7 5 3), (0x5E040000, .ptNeg 1 0), (0x5E1C5000, .ptNeg 7 5),
    (0x5F080040, .ptCsel 2 0 1 0), (0x5F1C50C2, .ptCsel 7 5 3 2), (0x60040000, .ptCneg 1 0),
    (0x601C0002, .ptCneg 7 2), (0x61040000, .ptCassign 1 0 0), (0x611C5002, .ptCassign 7 5 2),
    (0x62040040, .ptEq 1 0 1), (0x621C50C0, .ptEq 7 5 3), (0x63001000, .ptIssmall 0 1),
    (0x631C5000, .ptIssmall 7 5), (0x64001000, .ptIsident 0 1), (0x641C5000, .ptIsident 7 5),
    (0x65040000, .ptMulcof 1 0), (0x651C5000, .ptMulcof 7 5), (0x66080040, .ptEadd 2 0 1),
    (0x661C50C0, .ptEadd 7 5 3), (0x67080040, .ptEsub 2 0 1), (0x671C50C0, .ptEsub 7 5 3),
    (0x68040000, .ptEdbl 1 0), (0x681C5000, .ptEdbl 7 5)] = true := by
  decide +kernel

theorem test_decode_multiplier : decodesTo [
    (0x70040000, .ptSmul 1 0 0), (0x701C50C0, .ptSmul 7 5 3), (0x71080041, .ptDsmb 2 0 1 1),
    (0x711C50C2, .ptDsmb 7 5 3 2), (0x72000000, .msmClr), (0x72000000, .msmClr), (0x73000040, .msmPush 0 1),
    (0x730050C0, .msmPush 5 3), (0x74080000, .msmRun 2), (0x741C0000, .msmRun 7), (0x78040000, .ell2 1 0),
    (0x783CD000, .ell2 15 13), (0x79001000, .mtoe 0 1 0), (0x791CD001, .mtoe 7 13 1)] = true := by
  decide +kernel


/-- The fault a word meets in decoding (95_test_vectors.md X1, F7, D3, Y3). -/
theorem test_decode_faults :
    ([(0xFF3FFFFF, .illegalOpcode), (0x00000000, .illegalOpcode), (0x10400040, .illegalField),
      (0x11001040, .slotRange), (0x10400000, .illegalField), (0x13040001, .illegalField), (0x13040040, .illegalField),
      (0x42000001, .illegalField), (0x41000009, .illegalField), (0x08200001, .illegalField), (0x43000039, .slotRange),
      (0x3100003F, .slotRange), (0x1D041040, .illegalField)] : List (Word × FaultCode)).all
        (fun r => decide (decode Params.default r.1 = .error r.2)) = true := by decide +kernel

/-! ### One step of every command -/

theorem test_choices : allOf [
  -- nop: R131
  runs (State.reset) 0x01000000 (fun t => (t.cmdidx, t.fault) == (1, false)),
  -- chSet: R133
  runs (State.reset) 0x080C0001 (fun t => t.readC 3 == some true),
  -- chSet_zero: R133
  runs (stateOf (c := [true])) 0x08000000 (fun t => t.readC 0 == some false),
  -- chNot: R134
  runs (stateOf (c := [false])) 0x09040000 (fun t => t.readC 1 == some true),
  -- chAnd: R135
  runs (stateOf (c := [true, false])) 0x0A080040 (fun t => t.readC 2 == some false),
  -- chAnd_both: R135
  runs (stateOf (c := [true, true])) 0x0A080040 (fun t => t.readC 2 == some true),
  -- chOr: R136
  runs (stateOf (c := [true, false])) 0x0B080040 (fun t => t.readC 2 == some true),
  -- chOr_neither: R136
  runs (stateOf (c := [false, false])) 0x0B080040 (fun t => t.readC 2 == some false),
  -- chXor: R137
  runs (stateOf (c := [true, true])) 0x0C080040 (fun t => t.readC 2 == some false),
  -- chXor_differ: R137
  runs (stateOf (c := [false, true])) 0x0C080040 (fun t => t.readC 2 == some true)] = true := by
  decide +kernel

theorem test_fieldMoves : allOf [
  -- feLd: R170
  runs (stateOf (m := slot 2 0xffffffffffffffffffffffffffffffffffffffffffffffffffffffffffffffff)) 0x10040002 (fun t
      => fieldAt t 1 == some 18),
  -- feLd_p: vector F1
  runs (stateOf (m := slot 0 0x7fffffffffffffffffffffffffffffffffffffffffffffffffffffffffffffed)) 0x10000000 (fun t
      => fieldAt t 0 == some 0),
  -- feSt: R171
  runs (stateOf (f := [0, 18])) 0x11001003 (fun t => slotAt t 3 == 18),
  -- feSt_noncanonical: R171
  runs (stateOf (f := [0x7fffffffffffffffffffffffffffffffffffffffffffffffffffffffffffffee])) 0x11000000 (fun t =>
      slotAt t 0 == 1),
  -- feConst: R172
  runs (State.reset) 0x12000005 (fun t => fieldAt t 0 == some
      0x2b8324804fc1df0b2b4d00993dfbd7a72f431806ad2fe478c4ee1b274a0ea0b0),
  -- feConst_d2: vector F2
  runs (State.reset) 0x12100004 (fun t => fieldAt t 4 == some
      0x2406d9dc56dffce7198e80f2eef3d13000e0149a8283b156ebd69b9426b2f159),
  -- feMov: R173
  runs (stateOf (f := [0, 7])) 0x13081000 (fun t => fieldAt t 2 == some 7),
  -- feRed: R185
  runs (stateOf (f := [0x7ffffffffffffffffffffffffffffffffffffffffffffffffffffffffffffff4])) 0x1F040000 (fun t =>
      t.readF 1 == some (Fe.ofLimbs 7 0 0 0 0))] = true := by
  decide +kernel

theorem test_fieldRing : allOf [
  -- feAdd_wraps: R174
  runs (stateOf (f := [0x7fffffffffffffffffffffffffffffffffffffffffffffffffffffffffffffec, 1])) 0x14080040 (fun t
      => fieldAt t 2 == some 0),
  -- feSub_wraps: R175
  runs (stateOf (f := [1, 2])) 0x15080040 (fun t => fieldAt t 2 == some
      0x7fffffffffffffffffffffffffffffffffffffffffffffffffffffffffffffec),
  -- feNeg: R176
  runs (stateOf (f := [1])) 0x16040000 (fun t => fieldAt t 1 == some
      0x7fffffffffffffffffffffffffffffffffffffffffffffffffffffffffffffec),
  -- feNeg_zero: vector F3
  runs (stateOf (f := [0])) 0x16180000 (fun t => fieldAt t 6 == some 0),
  -- feMul: R177
  runs (stateOf (f := [0, 0x2b8324804fc1df0b2b4d00993dfbd7a72f431806ad2fe478c4ee1b274a0ea0b0,
      0x2b8324804fc1df0b2b4d00993dfbd7a72f431806ad2fe478c4ee1b274a0ea0b0])) 0x170C1080 (fun t => fieldAt t 3 ==
      some 0x7fffffffffffffffffffffffffffffffffffffffffffffffffffffffffffffec),
  -- feMul_edges: hand: (-2)(-3)
  runs (stateOf (f := [0, 0x7fffffffffffffffffffffffffffffffffffffffffffffffffffffffffffffeb,
      0x7fffffffffffffffffffffffffffffffffffffffffffffffffffffffffffffea])) 0x170C1080 (fun t => fieldAt t 3 ==
      some 6),
  -- feSq: R178
  runs (stateOf (f := [0x7fffffffffffffffffffffffffffffffffffffffffffffffffffffffffffffec])) 0x18040000 (fun t =>
      fieldAt t 1 == some 1),
  -- feSq2: R179
  runs (stateOf (f := [3])) 0x19040000 (fun t => fieldAt t 1 == some 18)] = true := by
  decide +kernel

theorem test_fieldPowers : allOf [
  -- fePow2k: R180
  runs (stateOf (f := [2])) 0x1A040005 (fun t => fieldAt t 1 == some 0x100000000),
  -- feInv: R181
  runs (stateOf (f := [2])) 0x1B040000 (fun t => fieldAt t 1 == some
      0x3ffffffffffffffffffffffffffffffffffffffffffffffffffffffffffffff7),
  -- feInv_zero: vector F3
  runs (stateOf (f := [0])) 0x1B3C0000 (fun t => fieldAt t 15 == some 0),
  -- fePowp58: R182
  runs (stateOf (f := [2])) 0x1C040000 (fun t => fieldAt t 1 == some
      0x55c1924027e0ef8595a6804c9efdebd397a18c035697f23c62770d93a507504f),
  -- fePow22501: R183
  runs (stateOf (f := [2])) 0x1D042000 (fun t => fieldAt t 2 == some 2048 && fieldAt t 1 == some
      0x7f8c93ad10b56258d55fdaeefe606340a2aeb27fcc09f34af495e0b5be4f023c)] = true := by
  decide +kernel

theorem test_fieldSqrtRatio : allOf [
  -- feSqrtri: R184
  runs (stateOf (f := [4, 1])) 0x1E080040 (fun t => fieldAt t 2 == some 2 && t.readC 0 == some true),
  -- feSqrtri_nonsquare: R184
  runs (stateOf (f := [2, 1])) 0x1E080040 (fun t => fieldAt t 2 == some
      0x547cdb7fb03e20f4d4b2ff66c2042858d0bce7f952d01b873b11e4d8b5f15f3c && t.readC 0 == some false)] = true := by
  decide +kernel

theorem test_fieldSelects : allOf [
  -- feCsel: R186
  runs (stateOf (f := [7, 9]) (c := [false, true])) 0x20080041 (fun t => fieldAt t 2 == some 9),
  -- feCsel_zero: R186
  runs (stateOf (f := [7, 9]) (c := [false, false])) 0x20080041 (fun t => fieldAt t 2 == some 7),
  -- feCneg: R187
  runs (stateOf (f := [0, 0, 9]) (c := [false, true])) 0x21080001 (fun t => fieldAt t 2 == some
      0x7fffffffffffffffffffffffffffffffffffffffffffffffffffffffffffffe4),
  -- feCneg_zero: R187
  runs (stateOf (f := [0, 0, 9]) (c := [true, false])) 0x21080001 (fun t => fieldAt t 2 == some 9),
  -- feCassign: R188
  runs (stateOf (f := [7, 0, 9]) (c := [true, false])) 0x22080001 (fun t => fieldAt t 2 == some 9),
  -- feCassign_one: R188
  runs (stateOf (f := [7, 0, 9]) (c := [false, true])) 0x22080001 (fun t => fieldAt t 2 == some 7)] = true := by
  decide +kernel

theorem test_fieldTests : allOf [
  -- feEq: R189
  runs (stateOf (f := [7, 9])) 0x23000040 (fun t => t.readC 0 == some false),
  -- feEq_noncanonical: R189
  runs (stateOf (f := [7, 0x7ffffffffffffffffffffffffffffffffffffffffffffffffffffffffffffff4])) 0x23000040 (fun t
      => t.readC 0 == some true),
  -- feIsneg: R190
  runs (stateOf (f := [0, 0x7fffffffffffffffffffffffffffffffffffffffffffffffffffffffffffffec])) 0x24001000 (fun t
      => t.readC 0 == some false),
  -- feIsneg_odd: R190
  runs (stateOf (f := [0, 1])) 0x24001000 (fun t => t.readC 0 == some true),
  -- feIszero: R191
  runs (stateOf (f := [0, 0x7fffffffffffffffffffffffffffffffffffffffffffffffffffffffffffffed])) 0x25001000 (fun t
      => t.readC 0 == some true),
  -- feIszero_one: R191
  runs (stateOf (f := [0, 1])) 0x25001000 (fun t => t.readC 0 == some false)] = true := by
  decide +kernel

theorem test_scalarMoves : allOf [
  -- scLd: R230
  runs (stateOf (m := slot 4 0xffffffffffffffffffffffffffffffffffffffffffffffffffffffffffffffff)) 0x30040004 (fun t
      => (t.readS 1).map BitVec.toNat == some 0x7fffffffffffffffffffffffffffffffffffffffffffffffffffffffffffffff),
  -- scLdw: R231
  runs (stateOf (m := memWrite [] 192 (leBytes 64 (2 ^ 512 - 1)))) 0x31080006 (fun t => (t.readS 2).map
      BitVec.toNat == some 0x399411b7c309a3dceec73d217f5be65d00e1ba768859347a40611e3449c0f00),
  -- scSt_unreduced: vector C1
  runs (stateOf (s := [0x7fffffffffffffffffffffffffffffffffffffffffffffffffffffffffffffff])) 0x3200000A (fun t =>
      slotAt t 10 == 0x7fffffffffffffffffffffffffffffffffffffffffffffffffffffffffffffff),
  -- scMov: R233
  runs (stateOf (s := [0, 0, 0x7fffffffffffffffffffffffffffffffffffffffffffffffffffffffffffffff])) 0x330C2000 (fun
      t => (t.readS 3).map BitVec.toNat == some 0x7fffffffffffffffffffffffffffffffffffffffffffffffffffffffffffffff)] = true := by
  decide +kernel

theorem test_scalarRing : allOf [
  -- scAdd_wraps: R234
  runs (stateOf (s := [0x1000000000000000000000000000000014def9dea2f79cd65812631a5cf5d3ec, 1])) 0x34080040 (fun t
      => (t.readS 2).map BitVec.toNat == some 0),
  -- scAdd_noncanonical: vector C1
  runs (stateOf (s := [0x7fffffffffffffffffffffffffffffffffffffffffffffffffffffffffffffff])) 0x34140000 (fun t =>
      (t.readS 5).map BitVec.toNat == some 0xffffffffffffffffffffffffffffffec6ef5bf4737dcf70d6ec31748d98951b),
  -- scSub_wraps: R235
  runs (stateOf (s := [1, 2])) 0x35080040 (fun t => (t.readS 2).map BitVec.toNat == some
      0x1000000000000000000000000000000014def9dea2f79cd65812631a5cf5d3ec),
  -- scMul: R236
  runs (stateOf (s := [0x1000000000000000000000000000000014def9dea2f79cd65812631a5cf5d3ec,
      0x1000000000000000000000000000000014def9dea2f79cd65812631a5cf5d3ec])) 0x36080040 (fun t => (t.readS 2).map
      BitVec.toNat == some 1),
  -- scMul_noncanonical: R236
  runs (stateOf (s := [0x7fffffffffffffffffffffffffffffffffffffffffffffffffffffffffffffff,
      0x7fffffffffffffffffffffffffffffffffffffffffffffffffffffffffffffff])) 0x36080040 (fun t => (t.readS 2).map
      BitVec.toNat == some 0xce65046df0c268f73bb1cf485fd6f9ad19a603b03d4e7d82c358072663ca183),
  -- scNeg: R237
  runs (stateOf (s := [1])) 0x37040000 (fun t => (t.readS 1).map BitVec.toNat == some
      0x1000000000000000000000000000000014def9dea2f79cd65812631a5cf5d3ec),
  -- scNeg_zero: vector C1
  runs (stateOf (s := [0])) 0x37040000 (fun t => (t.readS 1).map BitVec.toNat == some 0),
  -- scRed: R238
  runs (stateOf (s := [0x7fffffffffffffffffffffffffffffffffffffffffffffffffffffffffffffff])) 0x38040000 (fun t =>
      (t.readS 1).map BitVec.toNat == some 0xfffffffffffffffffffffffffffffff6de72ae98b3ab623977f4a4775473484),
  -- scIscanon: R239
  runs (stateOf (s := [0x7fffffffffffffffffffffffffffffffffffffffffffffffffffffffffffffff])) 0x39000000 (fun t =>
      t.readC 0 == some false),
  -- scIscanon_edge: vector C1
  runs (stateOf (s := [0x1000000000000000000000000000000014def9dea2f79cd65812631a5cf5d3ec])) 0x39000000 (fun t =>
      t.readC 0 == some true)] = true := by
  decide +kernel

theorem test_scalarMontgomery : allOf [
  -- scMmul: R240
  runs (stateOf (s := [1, 1])) 0x3A080040 (fun t => (t.readS 2).map BitVec.toNat == some
      0xc9db6c6f26fe9183614e75438ffa36bfb2697cda3adacf58e84371e098e4fc4),
  -- scTomont: R241
  runs (stateOf (s := [1])) 0x3B040000 (fun t => (t.readS 1).map BitVec.toNat == some
      0xfffffffffffffffffffffffffffffeb35e51b3bab5ac67e45af48bd6721e6ed),
  -- scFrommont: R242
  runs (stateOf (s := [0xfffffffffffffffffffffffffffffeb35e51b3bab5ac67e45af48bd6721e6ed])) 0x3C040000 (fun t =>
      (t.readS 1).map BitVec.toNat == some 1)] = true := by
  decide +kernel

theorem test_digits : allOf [
  -- scRadix16: R243
  runs (stateOf (s := [248])) 0x40000000 (fun t => digitsAt t 0 == some (64, [(0, -8), (2, 1)])),
  -- scRadix16_top: R243
  runs (stateOf (s := [0x7fffffffffffffffffffffffffffffffffffffffffffffffffffffffffffffff])) 0x40000000 (fun t =>
      digitsAt t 0 == some (64, [(0, -1), (63, 8)])),
  -- scRadix2w: R244
  runs (stateOf (s := [0x7fffffffffffffffffffffffffffffffffffffffffffffffffffffffffffffff])) 0x41040008 (fun t =>
      digitsAt t 1 == some (33, [(0, -1), (31, -128), (32, 1)])),
  -- scRadix2w_5: vector D1
  runs (stateOf (s := [255])) 0x41000005 (fun t => digitsAt t 0 == some (52, [(0, -1), (1, 8)])),
  -- scNaf: R245
  runs (stateOf (s := [248])) 0x42000005 (fun t => digitsAt t 0 == some (256, [(3, -1), (8, 1)])),
  -- scNaf_8: vector D1
  runs (stateOf (s := [248])) 0x42040008 (fun t => digitsAt t 1 == some (256, [(3, 31)])),
  -- dgSt: vector D2
  runs (withDigits) 0x43000008 (fun t => memRead t.oram 256 256 == [0xF8, 0, 1] ++ List.replicate 253 0)] = true := by
  decide +kernel

theorem test_pointMoves : allOf [
  -- ptIdent: R270
  runs (State.reset) 0x50000000 (fun t => componentsAt t 0 == some [0, 1, 1, 0]),
  -- ptBase: R271
  runs (State.reset) 0x51000000 (fun t => componentsAt t 0 == some
      [0x216936d3cd6e53fec0a4e231fdd6dc5c692cc7609525a7b2c9562d608f25d51a,
      0x6666666666666666666666666666666666666666666666666666666666666658, 1,
      0x67875f0fd78b766566ea4e8e64abe37d20f09f80775152f56dde8ab3a5b7dda3]),
  -- ptMov: R272
  runs (stateOf (q := [pointB])) 0x52040000 (fun t => t.readP 1 == some pointB)] = true := by
  decide +kernel

theorem test_decompression : allOf [
  -- ptDecomp: R273
  runs (stateOf (m := slot 3 0x6666666666666666666666666666666666666666666666666666666666666658)) 0x53040003 (fun t
      => componentsAt t 1 == some [0x216936d3cd6e53fec0a4e231fdd6dc5c692cc7609525a7b2c9562d608f25d51a,
      0x6666666666666666666666666666666666666666666666666666666666666658, 1,
      0x67875f0fd78b766566ea4e8e64abe37d20f09f80775152f56dde8ab3a5b7dda3] && t.readC 0 == some true),
  -- ptDecomp_off_curve: R273
  runs (stateOf (q := [pointI, pointI]) (m := slot 3 2)) 0x53040003 (fun t => t.readP 1 == none && t.readC 0 ==
      some false && t.fault == false),
  -- ptDecomp_negative_zero: R273, 90_conflicts.md C4
  runs (stateOf (m := slot 0 0x8000000000000000000000000000000000000000000000000000000000000001)) 0x53000000 (fun t
      => componentsAt t 0 == some [0, 1, 1, 0] && t.readC 0 == some true),
  -- ptDecomp_reject: R273
  runs ({ stateOf (m := slot 0 0x8000000000000000000000000000000000000000000000000000000000000001) with params := {
      Params.default with rejectNegZero := true } }) 0x53000000 (fun t => t.readP 0 == none && t.readC 0 == some
      false)] = true := by
  decide +kernel

theorem test_compression : allOf [
  -- ptComp: R274
  runs (stateOf (q := [pointI, pointOf 0x5e96c92c3291ac013f5b1dce022923a396d3389f6ada584d36a9d29f70da2ad3
      0x6666666666666666666666666666666666666666666666666666666666666658])) 0x54001001 (fun t => slotAt t 1 ==
      0xe666666666666666666666666666666666666666666666666666666666666658)] = true := by
  decide +kernel

theorem test_conversions : allOf [
  -- ptE2p: R275
  runs (stateOf (q := [.ext (extOf 2 3 5 7)])) 0x55040000 (fun t => componentsAt t 1 == some [2, 3, 5]),
  -- ptE2pn: R276, by hand
  runs (stateOf (q := [.ext (extOf 2 3 5 7)])) 0x56080000 (fun t => componentsAt t 2 == some [5, 1, 5,
      0x7c2ff506601fea51b2e586a488aab850062090399199d96072de410d0ee49982]),
  -- ptE2an: R277
  runs (stateOf (q := [pointB])) 0x57080000 (fun t => componentsAt t 2 == some
      [0x7cf9d3a33d4ba65270b4898643d42c2cf932dc6fb8c0e192fbc93c6f58c3b85,
      0x44fd2f9298f81267a5c18434688f8a09fd399f05d140beb39d103905d740913e,
      0x6f117b689f0c65a85a1b7dcbdd43598c26d9e823ccaac49eabc91205877aaa68]),
  -- ptP2e: R278, by hand
  runs (stateOf (q := [pointI, .proj ⟨fe 2, fe 3, fe 5⟩])) 0x58001000 (fun t => componentsAt t 0 == some [10, 15,
      25, 6]),
  -- ptC2p: R279, by hand
  runs (stateOf (q := [pointI, pointI, pointI, .compl ⟨fe 2, fe 3, fe 5, fe 7⟩])) 0x59043000 (fun t => componentsAt
      t 1 == some [14, 15, 35]),
  -- ptC2e: R280, by hand
  runs (stateOf (q := [pointI, pointI, pointI, .compl ⟨fe 2, fe 3, fe 5, fe 7⟩])) 0x5A003000 (fun t => componentsAt
      t 0 == some [14, 15, 35, 6])] = true := by
  decide +kernel

theorem test_stagedArithmetic : allOf [
  -- ptDbl: R281, by hand
  runs (stateOf (q := [pointI, .proj ⟨fe 2, fe 3, fe 5⟩])) 0x5B0C1000 (fun t => componentsAt t 3 == some [12, 13,
      5, 45]),
  -- ptAdd_pniels: R282, by hand
  runs (stateOf (q := [.ext (extOf 2 3 5 7), pointI, .pniels ⟨fe 11, fe 13, fe 17, fe 19⟩])) 0x5C0C0080 (fun t =>
      componentsAt t 3 == some [42, 68, 303, 37]),
  -- ptAdd_aniels: R282, by hand
  runs (stateOf (q := [.ext (extOf 2 3 5 7), pointI, .aniels ⟨fe 11, fe 13, fe 19⟩])) 0x5C0C0080 (fun t =>
      componentsAt t 3 == some [42, 68, 143, 0x7fffffffffffffffffffffffffffffffffffffffffffffffffffffffffffff72]),
  -- ptSub_pniels: R283, by hand
  runs (stateOf (q := [.ext (extOf 2 3 5 7), pointI, .pniels ⟨fe 11, fe 13, fe 17, fe 19⟩])) 0x5D0C0080 (fun t =>
      componentsAt t 3 == some [54, 76, 37, 303]),
  -- ptSub_aniels: R283, by hand
  runs (stateOf (q := [.ext (extOf 2 3 5 7), pointI, .aniels ⟨fe 11, fe 13, fe 19⟩])) 0x5D0C0080 (fun t =>
      componentsAt t 3 == some [54, 76, 0x7fffffffffffffffffffffffffffffffffffffffffffffffffffffffffffff72, 143])] = true := by
  decide +kernel

theorem test_pointSelects : allOf [
  -- ptNeg: R284
  runs (stateOf (q := [pointB])) 0x5E040000 (fun t => compressedAt t 1 == some
      0xe666666666666666666666666666666666666666666666666666666666666658),
  -- ptNeg_aniels: R284, by hand
  runs (stateOf (q := [.aniels ⟨fe 11, fe 13, fe 19⟩])) 0x5E040000 (fun t => componentsAt t 1 == some [13, 11,
      0x7fffffffffffffffffffffffffffffffffffffffffffffffffffffffffffffda]),
  -- ptCsel: vector P6
  runs (stateOf (q := [pointI, pointB]) (c := [false])) 0x5F080040 (fun t => compressedAt t 2 == some 1),
  -- ptCsel_one: vector P6
  runs (stateOf (q := [pointI, pointB]) (c := [false, true])) 0x5F0C0041 (fun t => compressedAt t 3 == some
      0x6666666666666666666666666666666666666666666666666666666666666658),
  -- ptCneg: R286
  runs (stateOf (q := [pointI, pointB]) (c := [true])) 0x60040000 (fun t => compressedAt t 1 == some
      0xe666666666666666666666666666666666666666666666666666666666666658),
  -- ptCneg_pniels: R286, by hand
  runs (stateOf (q := [pointI, .pniels ⟨fe 11, fe 13, fe 17, fe 19⟩]) (c := [true])) 0x60040000 (fun t =>
      componentsAt t 1 == some [13, 11, 17, 0x7fffffffffffffffffffffffffffffffffffffffffffffffffffffffffffffda]),
  -- ptCassign: R287
  runs (stateOf (q := [pointB, pointI]) (c := [false])) 0x61040000 (fun t => compressedAt t 1 == some 1),
  -- ptCassign_one: R287
  runs (stateOf (q := [pointB, pointI]) (c := [true])) 0x61040000 (fun t => compressedAt t 1 == some
      0x6666666666666666666666666666666666666666666666666666666666666658)] = true := by
  decide +kernel

theorem test_pointTests : allOf [
  -- ptEq: R288
  runs (stateOf (q := [pointB, pointI])) 0x62040040 (fun t => t.readC 1 == some false),
  -- ptEq_projective: R288
  runs (stateOf (q := [pointB, .ext (extOf 0x42d26da79adca7fd8149c463fbadb8b8d2598ec12a4b4f6592ac5ac11e4baa34
      0x4cccccccccccccccccccccccccccccccccccccccccccccccccccccccccccccc3 2
      0x4f0ebe1faf16eccacdd49d1cc957c6fa41e13f00eea2a5eadbbd15674b6fbb59)])) 0x62040040 (fun t => t.readC 1 == some
      true),
  -- ptIssmall: R289
  runs (stateOf (q := [pointI, pointOf 0x2b8324804fc1df0b2b4d00993dfbd7a72f431806ad2fe478c4ee1b274a0ea0b0 0]))
      0x63001000 (fun t => t.readC 0 == some true),
  -- ptIssmall_base: R289
  runs (stateOf (q := [pointI, pointB])) 0x63001000 (fun t => t.readC 0 == some false),
  -- ptIsident: R290
  runs (stateOf (q := [pointB, .ext (extOf 0 5 5 0)])) 0x64001000 (fun t => t.readC 0 == some true),
  -- ptIsident_order2: R290
  runs (stateOf (q := [pointB, pointOf 0 0x7fffffffffffffffffffffffffffffffffffffffffffffffffffffffffffffec]))
      0x64001000 (fun t => t.readC 0 == some false)] = true := by
  decide +kernel

theorem test_composites : allOf [
  -- ptMulcof: R291
  runs (stateOf (q := [pointB])) 0x65040000 (fun t => compressedAt t 1 == some
      0x21d30600c9e573796ead6f09668af38f81783cfc621ee4931e2f5ba9fc37b9b4),
  -- ptEadd: R292
  runs (stateOf (q := [pointOf 0x36ab384c9f5a046c3d043b7d1833e7ac080d8e4515d7a45f83c5a14e2843ce0e
      0x2260cdf3092329c21da25ee8c9a21f5697390f51643851560e5f46ae6af8a3c9, pointB])) 0x66080040 (fun t =>
      compressedAt t 2 == some 0x1267b1d177ee69aba126a18e60269ef79f16ec176724030402c3684878f5b4d4),
  -- ptEsub: R293
  runs (stateOf (q := [pointB, pointB])) 0x67080040 (fun t => compressedAt t 2 == some 1),
  -- ptEsub_3B: vector P1
  runs (stateOf (q := [pointOf 0x67ae9c4a22928f491ff4ae743edac83a6343981981624886ac62485fd3f8e25c
      0x1267b1d177ee69aba126a18e60269ef79f16ec176724030402c3684878f5b4d4, pointB])) 0x67080040 (fun t =>
      compressedAt t 2 == some 0x2260cdf3092329c21da25ee8c9a21f5697390f51643851560e5f46ae6af8a3c9),
  -- ptEdbl: R294
  runs (stateOf (q := [pointB])) 0x68040000 (fun t => compressedAt t 1 == some
      0x2260cdf3092329c21da25ee8c9a21f5697390f51643851560e5f46ae6af8a3c9)] = true := by
  decide +kernel

theorem test_smul : allOf [
  -- ptSmul: R325
  runs (stateOf (s := [5]) (q := [pointB])) 0x70040000 (fun t => compressedAt t 1 == some
      0xdf4825b298feae6fe02c6e148992466631282eca89430b5d10d21f83d676c8ed),
  -- ptSmul_top: R325
  runs (stateOf (s := [0x7fffffffffffffffffffffffffffffffffffffffffffffffffffffffffffffff]) (q := [pointB]))
      0x70040000 (fun t => compressedAt t 1 == some
      0xd30fc99ca3e6e65f7efc4dad670c7830663dec75061d7f19380c408d946a9baf)] = true := by
  decide +kernel

theorem test_dsmb : allOf [
  -- ptDsmb: R329
  runs (stateOf (s := [3, 5]) (q := [pointI, pointOf
      0x36ab384c9f5a046c3d043b7d1833e7ac080d8e4515d7a45f83c5a14e2843ce0e
      0x2260cdf3092329c21da25ee8c9a21f5697390f51643851560e5f46ae6af8a3c9])) 0x71080041 (fun t => compressedAt t 2
      == some 0xad9082313f21ab975a6f7ce340ff0fce1258591c3c9c58d4308f2dc36a033713),
  -- ptDsmb_zero: vector M2
  runs (stateOf (s := [0, 0]) (q := [pointI, pointOf
      0x36ab384c9f5a046c3d043b7d1833e7ac080d8e4515d7a45f83c5a14e2843ce0e
      0x2260cdf3092329c21da25ee8c9a21f5697390f51643851560e5f46ae6af8a3c9])) 0x71080041 (fun t => compressedAt t 2
      == some 1)] = true := by
  decide +kernel

theorem test_pairList : allOf [
  -- msmClr: R331
  runs (withPairs) 0x72000000 (fun t => t.msm == []),
  -- msmPush: R332
  runs ({ stateOf (s := [7]) (q := [pointI, pointB]) with msm := [⟨2, extBase⟩] }) 0x73000040 (fun t => t.msm ==
      [⟨2, extBase⟩, ⟨7, extBase⟩]),
  -- msmRun: R333
  runs (withPairs) 0x74080000 (fun t => compressedAt t 2 == some
      0x21d30600c9e573796ead6f09668af38f81783cfc621ee4931e2f5ba9fc37b9b4 && t.msm == [])] = true := by
  decide +kernel

theorem test_elligator : allOf [
  -- ell2: R351
  runs (stateOf (f := [1])) 0x78040000 (fun t => fieldAt t 1 == some
      0x555555555555555555555555555555555555555555555555555555555552db9c),
  -- ell2_nonsquare: vector E1
  runs (stateOf (f := [0x2b8324804fc1df0b2b4d00993dfbd7a72f431806ad2fe478c4ee1b274a0ea0b0])) 0x78040000 (fun t =>
      fieldAt t 1 == some 0x7ffffffffffffffffffffffffffffffffffffffffffffffffffffffffff125e1),
  -- mtoe: R352
  runs (stateOf (f := [0, 9])) 0x79001000 (fun t => compressedAt t 0 == some
      0x6666666666666666666666666666666666666666666666666666666666666658),
  -- mtoe_twist: R352
  runs (stateOf (f := [0, 2]) (q := [pointB])) 0x79001000 (fun t => t.faultcode == 8 && t.readP 0 == some pointB &&
      t.cmdidx == 0)] = true := by
  decide +kernel

/-! ### Faults in execution, the host's window, reset -/

/-- The fault a command takes on a state, its code. -/
def faultsWith (k : BitVec 8) (s : State) (w : Nat) : Bool :=
  runs s w fun t => t.fault && t.faultcode == k && t.faultcmd == BitVec.ofNat 32 w && t.faultidx == s.cmdidx &&
    { t with fault := false, faultcode := 0, faultcmd := 0, faultidx := 0 } == s

/-- A `PROJ` content. -/
def proj235 : Point := .proj ⟨fe 2, fe 3, fe 5⟩

/-- The rows of 95_test_vectors.md Y3, P5, P7, M3, M4, X1 and E2. -/
theorem test_faults : allOf [
  faultsWith 4 State.reset 0x09040000,
  faultsWith 4 State.reset 0x54000001,
  faultsWith 5 (stateOf (q := [pointB])) 0x5B040000,
  faultsWith 5 (stateOf (q := [pointB])) 0x5A040000,
  faultsWith 5 (stateOf (q := [pointB, proj235])) 0x54001000,
  faultsWith 5 (stateOf (q := [pointB, proj235])) 0x5C080040,
  faultsWith 5 (stateOf (q := [pointB, proj235])) 0x5E081000,
  faultsWith 5 (stateOf (q := [pointB, proj235]) (c := [false])) 0x5F080040,
  faultsWith 5 (stateOf (q := [pointB, .aniels anielsIdentity])) 0x66080040,
  faultsWith 4 (stateOf (q := [pointB, proj235])) 0x5C0810C0,
  faultsWith 4 (stateOf (q := [pointB, proj235])) 0x5C083040,
  faultsWith 7 State.reset 0x74100000,
  faultsWith 6 { stateOf (s := [1]) (q := [pointB]) with msm := List.replicate 64 ⟨1, extBase⟩ } 0x73000000,
  faultsWith 4 { stateOf (s := [1]) (q := [pointB]) with msm := List.replicate 64 ⟨1, extBase⟩ } 0x73001000,
  faultsWith 3 State.reset 0x11001040,
  faultsWith 8 (stateOf (f := [p - 1])) 0x79000000,
  faultsWith 1 State.reset 0xFF3FFFFF] = true := by
  decide +kernel

/-- 95_test_vectors.md X3: what the host reads after reset. -/
theorem test_reset_reads : [(0x000, 0x45443235), (0x004, 7), (0x008, 0x08080810), (0x00C, 0x00404002), (0x010, 0),
    (0x014, 2), (0x018, 0), (0x01C, 0), (0x020, 0), (0x024, 0), (0x028, 0), (0x02C, 0), (0x030, 0), (0x034, 0),
    (0x038, 0), (0x03C, 0), (0x7FC, 0), (0x800, 0), (0xFFC, 0)].all
      (fun q => (hostRead State.reset q.1).toNat == q.2) = true := by decide +kernel

/-- 95_test_vectors.md X4: the byte order of the window. -/
theorem test_window_words : [(0x840, 0x5CF5D3EC), (0x844, 0x5812631A), (0x848, 0xA2F79CD6), (0x84C, 0x14DEF9DE),
    (0x850, 0), (0x854, 0), (0x858, 0), (0x85C, 0x10000000)].all
      (fun q => (hostRead (stateOf (m := slot 2 (ell - 1))) q.1).toNat == q.2) = true := by decide +kernel

/-- 95_test_vectors.md X4: a word written by the host. -/
theorem test_window_write :
    (match step { State.reset with bus := [.write 0x840 0x5CF5D3EC] } with
      | .next t => memRead t.oram 63 6 == [0, 0xEC, 0xD3, 0xF5, 0x5C, 0] && t.bus == []
      | .fault _ => false
      | .refused _ => false) = true := by decide +kernel

/-- CHOICE, PTAG and RVALID (10_state.md R51, R54; 95_test_vectors.md P3 for the tag codes). -/
theorem test_mirrors :
    let s := { stateOf (f := [1, 2]) (s := [1]) (q := [pointB, proj235, .compl ⟨fe 0, fe 1, fe 1, fe 1⟩,
      .pniels pnielsIdentity, .aniels anielsIdentity]) (c := [true, false, true]) with DG := [none, some ⟨64, []⟩] }
    (hostRead s 0x028, hostRead s 0x034, hostRead s 0x038) = (0x00000705, 0x00054321, 0x02010003) := by
  decide +kernel

/-- 95_test_vectors.md program 4, rows 2 to 4: a fault is sticky, a write of 1 to CTRL resets. -/
theorem test_sticky_and_reset :
    let s := { stateOf (f := [1]) with fault := true, faultcode := 3, faultcmd := 0x11001040, faultidx := 1, cmdidx := 1 }
    step (s.withFetchWord 32 0x11000000) = .next s ∧
      step { s with bus := [.write 0x030 1] } = .next State.reset ∧
      step { s with bus := [.write 0x030 2] } = .next s := ⟨rfl, rfl, rfl⟩

/-! ### Witnesses: the hypotheses of the statements can be met together -/

/-- A state with something of every kind in it. -/
def full : State :=
  { stateOf (f := [4, 1, 2, 9, 0]) (s := [3, 5, 2 ^ 255 - 1, 1, 0]) (q := [pointB, pointI, .proj projIdentity,
      .compl ⟨feZero, feOne, feOne, feOne⟩, .pniels pnielsIdentity, .aniels anielsIdentity]) (c := [true, false])
      (m := slot 0 46316835694926478169428394003475163141307993866256225615783033603165251855960) with
    DG := [some ⟨64, [0xF8, 0, 1] ++ List.replicate 253 0⟩, none], msm := [⟨2, extBase⟩] }

/-- `full` with these events on the bus. -/
def busy (es : List BusEvent) : State := { full with bus := es }

/-- `full` on an instance that rejects `x = 0` with sign bit 1 (43_point.md R273). -/
def rejecting : State := { full with params := { Params.default with rejectNegZero := true } }

/-- `full` with a fault recorded and these events on the bus. -/
def faulted (es : List BusEvent) : State := { busy es with fault := true, faultcode := 4, faultcmd := 0x09040000 }

/-- A content with the value 0 and limbs that are not canonical. -/
def zeroAsP : Fe :=
  Fe.ofLimbs 2251799813685229 2251799813685247 2251799813685247 2251799813685247 2251799813685247

/-- `full` with `F4`, which is 0, held as `p`. -/
def fullAlt : State := { full with F := full.F.set 4 (some zeroAsP) }

theorem forall_some {α : Type} (P : α → Prop) (l : List (Option α)) (h : ∀ o ∈ l, ∀ x ∈ o, P x) :
    ∀ x, some x ∈ l → P x := fun x hx => h (some x) hx x rfl

/-- Validity from the natural numbers of the components. -/
theorem valid_of_fval (e : Ext) (hz : e.Z.fval ≠ 0) (h1 : e.X.fval * e.Y.fval % p = e.Z.fval * e.T.fval % p)
    (h2 : (e.Y.fval ^ 2 * e.Z.fval ^ 2) % p =
      (e.Z.fval ^ 4 + feEdwardsD.fval * e.X.fval ^ 2 * e.Y.fval ^ 2 + e.X.fval ^ 2 * e.Z.fval ^ 2) % p) :
    e.gf.Valid := by
  refine ⟨(Fe.gf_ne_zero_iff _).2 hz, ?_, ?_⟩
  · have := (gf_natCast_eq_iff _ _).2 h1
    push_cast at this
    exact this
  · have := (gf_natCast_eq_iff _ _).2 h2
    push_cast at this
    simp only [Ext.gf, gfD, Fe.gf]
    linear_combination this

theorem feOne_gf : feOne.gf = 1 := by
  rw [Fe.gf, show feOne.fval = 1 by decide +kernel, Nat.cast_one]

theorem feZero_gf : feZero.gf = 0 := by
  rw [Fe.gf, show feZero.fval = 0 by decide +kernel, Nat.cast_zero]

/-- The basepoint's content is valid. -/
theorem base_valid : extBase.gf.Valid :=
  valid_of_fval _ (by decide +kernel) (by decide +kernel) (by decide +kernel)

theorem pointB_eq : pointB = .ext extBase := by decide +kernel

theorem full_points : full.PointsValid := by
  have hone := feOne_gf
  have hzero := feZero_gf
  have h10 : (1 : GF) ≠ 0 := by rw [← hone]; exact (Fe.gf_ne_zero_iff _).2 (by decide +kernel)
  refine ⟨forall_some _ _ ?_, ?_⟩
  · have hP : full.P = [some (.ext extBase), some (.ext extIdentity), some (.proj projIdentity),
        some (.compl ⟨feZero, feOne, feOne, feOne⟩), some (.pniels pnielsIdentity), some (.aniels anielsIdentity), none,
        none] := by decide +kernel
    rw [hP]
    simp only [List.forall_mem_cons, Option.mem_def, Option.some.injEq, forall_eq', reduceCtorEq, false_implies,
      implies_true, List.not_mem_nil, and_true]
    refine ⟨base_valid, ⟨?_, ?_, ?_⟩, ⟨?_, ?_⟩, ⟨?_, ?_, ?_⟩, ⟨gIdentity, ⟨?_, ?_, ?_⟩, ?_⟩, ⟨0, 1, ?_, ?_⟩⟩ <;>
      simp [Ext.gf, Proj.gf, Compl.gf, PNiels.gf, ANiels.gf, extIdentity, projIdentity, pnielsIdentity, anielsIdentity,
        gIdentity, GExt.toPN, OnCurve, hone, hzero, h10]
  · have hM : full.msm = [⟨2, extBase⟩] := rfl
    rw [hM]
    simp only [List.mem_singleton, forall_eq]
    exact base_valid

theorem full_limbs (n : Nat) (hn : n = 53 ∨ n = 54) : full.LimbsBelow n := by
  refine ⟨forall_some _ _ ?_, forall_some _ _ ?_, ?_⟩
  · rcases hn with rfl | rfl <;> decide +kernel
  · have hP : full.P = [some (.ext extBase), some (.ext extIdentity), some (.proj projIdentity),
        some (.compl ⟨feZero, feOne, feOne, feOne⟩), some (.pniels pnielsIdentity), some (.aniels anielsIdentity), none,
        none] := by decide +kernel
    rw [hP]
    simp only [List.forall_mem_cons, Option.mem_def, Option.some.injEq, forall_eq', reduceCtorEq, false_implies,
      implies_true, List.not_mem_nil, and_true, Point.Below]
    rcases hn with rfl | rfl <;>
      exact ⟨by decide +kernel, by decide +kernel, by decide +kernel, by decide +kernel, by decide +kernel,
        by decide +kernel⟩
  · rcases hn with rfl | rfl <;> decide +kernel

theorem full_S : full.S = [some 3, some 5,
    some 57896044618658097711785492504343953926634992332820282019728792003956564819967, some 1, some 0, none, none,
    none] := by decide +kernel

theorem full_inv : full.Inv where
  params := by decide
  files := by decide +kernel
  limbs := full_limbs 53 (.inl rfl)
  scalars := ⟨forall_some _ _ (by rw [full_S]; simp), by decide +kernel⟩
  digits := forall_some _ _ (by decide +kernel)
  pairs := by decide +kernel
  memory := by decide +kernel
  addresses := by decide +kernel
  record := by decide +kernel
  held := by decide +kernel


/-- Encoding and decoding: registers, immediates and slots at the ends of their ranges; a word of an assigned opcode
that fails a check; an ill-formed command. -/
theorem witness_encoding :
    (Instr.feSqrtri 15 15 15 7).WellFormed Params.default ∧ (Instr.fePow2k 0 15 4095).WellFormed Params.default ∧
      (Instr.scLdw 7 62).WellFormed Params.default ∧
      decode Params.default 0x1E3CF3C7 = .ok (.feSqrtri 15 15 15 7) ∧ (rowOf (fieldOp 0x10400040)).isSome = true ∧
      (Instr.feLd 16 0).check Params.default = some .illegalField ∧
      (Instr.feLd 0 64).check Params.default = some .slotRange := by decide +kernel

/-- StepRunsDecodedCommand, CmdWrite, CommandCounter, NopRetires. -/
theorem witness_commands :
    (busy [.write cmdOffset 0x01000000]).bus = .write cmdOffset 0x01000000 :: [] ∧
      (busy [.write cmdOffset 0x01000000]).resetIn = false ∧ (busy [.write cmdOffset 0x01000000]).fault = false ∧
      decode full.params 0x01000000 = .ok .nop ∧ (faulted [.write cmdOffset 0x01000000]).fault = true ∧
      (faulted [.write cmdOffset 0x01000000]).resetIn = false ∧ (0x01000001 : Word).toNat / 2 ^ 24 = 0x01 := by
  decide +kernel

/-- FaultEntry: a word that faults in decoding and one that faults in execution. -/
theorem witness_faultEntry :
    (∃ t, step (busy [.write cmdOffset 0]) = .next t ∧ t.fault = true) ∧
      ∃ t, step (busy [.write cmdOffset 0x091C5000]) = .next t ∧ t.fault = true :=
  ⟨⟨_, rfl, rfl⟩, ⟨_, rfl, rfl⟩⟩

/-- FaultIsSticky: a faulted state, for each access of its clauses at the end of its range, and its steps. -/
theorem witness_faultIsSticky :
    (faulted []).fault = true ∧ (faulted [.read 0xFFC]).resetIn = false ∧ 0xFFC % 4 = 0 ∧
      0xFFC < windowEnd full.params ∧ 511 < 8 * full.params.nslot ∧
      (faulted [.write (0x800 + 4 * 511) 7]).bus = .write (0x800 + 4 * 511) 7 :: [] ∧ (1 : Word).getLsbD 0 = true ∧
      (∃ t, step (faulted [.write 0x030 1]) = .next t) ∧ (∃ t, step (faulted [.resetInput true]) = .next t) ∧
      ∃ t, step (faulted [.read 0xFFC]) = .next t :=
  ⟨rfl, rfl, rfl, by decide +kernel, by decide +kernel, rfl, rfl, ⟨_, rfl⟩, ⟨_, rfl⟩, ⟨_, rfl⟩⟩

/-- UnwrittenIffEmptySource and TypeIffTagRefused: a well-formed command with an EMPTY source, one with all sources
held and a tag refused, one with all accepted. -/
theorem witness_sources :
    (Instr.ptAdd 0 0 7).WellFormed full.params ∧ full.isEmpty (.p 7) = true ∧
      (Instr.ptAdd 0 2 4).WellFormed full.params ∧ (∀ r ∈ sources (.ptAdd 0 2 4), full.isEmpty r = false) ∧
      tagsAccepted full (.ptAdd 0 2 4) = false ∧ (∀ r ∈ sources (.ptAdd 0 0 5), full.isEmpty r = false) ∧
      tagsAccepted full (.ptAdd 0 0 5) = true := by decide +kernel

/-- An instance whose pair list holds one pair, and is full. -/
def fullList : State := { full with params := { Params.default with msmCap := 1 } }

/-- ListFaults: a full list with each of its three kinds of operands, and an empty one. -/
theorem witness_listFaults :
    fullList.msm.length = fullList.params.msmCap ∧ (Instr.msmPush 7 0).WellFormed fullList.params ∧
      fullList.readS 7 = none ∧ (Instr.msmPush 0 2).WellFormed fullList.params ∧ fullList.readS 0 = some 3 ∧
      fullList.readP 2 = some (.proj projIdentity) ∧ (Point.proj projIdentity).tag ≠ .ext ∧
      fullList.readP 0 = some pointB ∧ pointB.tag = .ext ∧ State.reset.msm.length = 0 ∧
      (Instr.msmRun 7).WellFormed State.reset.params := by decide +kernel

/-- FaultsIgnoreData and LimbsAreUnobservable: two states that differ in data of one shape, in limbs of one value. -/
theorem witness_pairs :
    full ≠ fullAlt ∧ full.shape = fullAlt.shape ∧ full.canon = fullAlt.canon ∧ full.LimbsBelow 54 ∧
      fullAlt.LimbsBelow 54 :=
  ⟨by decide +kernel, rfl, by decide +kernel, full_limbs 54 (.inr rfl),
    ⟨forall_some _ _ (by decide +kernel), (full_limbs 54 (.inr rfl)).2⟩⟩

/-- FrameOfCommands: a command that stores, its digit buffer legal, one that does not, and one that faults. -/
theorem witness_frame :
    (∃ t, exec (.dgSt 0 56) full = .next t) ∧ (∃ t, exec (.chNot 7 1) full = .next t) ∧
      (∃ t, exec (.chNot 7 7) full = .next t) ∧ (full.readDG 0).all (fun g => decide g.Legal) = true :=
  ⟨⟨_, rfl⟩, ⟨_, rfl⟩, ⟨_, rfl⟩, by decide +kernel⟩

/-- ChoiceCommands. -/
theorem witness_choice :
    (Instr.chSet 7 1).WellFormed full.params ∧ (Instr.chNot 7 1).WellFormed full.params ∧
      full.readC 0 = some true ∧ full.readC 1 = some false := by decide +kernel

/-- The field commands: registers 0 to 15, values held, limbs below 2^54; every command's well-formedness at the ends
of its ranges. -/
theorem witness_field :
    (15 : RegNo).toNat < full.params.nf ∧ (0 : RegNo).toNat < full.params.nf ∧ (7 : RegNo).toNat < full.params.nc ∧
      full.readF 0 = some (fe 4) ∧ full.readF 1 = some (fe 1) ∧ full.readF 4 = some (fe 0) ∧
      fullAlt.readF 4 = some zeroAsP ∧ (fe 4).Below 54 ∧ (fe 1).Below 54 ∧ (fe 0).Below 54 ∧ zeroAsP.Below 54 ∧
      full.readC 0 = some true ∧ full.readC 1 = some false ∧ full.readF 15 = none ∧
      (Instr.feCsel 15 0 1 0).WellFormed full.params ∧ (Instr.feCassign 4 0 1).WellFormed full.params ∧
      (Instr.feCneg 4 0).WellFormed full.params ∧
      (Instr.feLd 15 63).WellFormed full.params ∧ (Instr.feSt 0 63).WellFormed full.params ∧
      (Instr.feConst 15 7).WellFormed full.params ∧ (Instr.fePow2k 15 0 4095).WellFormed full.params ∧
      (Instr.feInv 15 0).WellFormed full.params ∧ (Instr.fePowp58 15 0).WellFormed full.params ∧
      (Instr.fePow22501 15 14 0).WellFormed full.params ∧ (Instr.feSqrtri 15 0 1 7).WellFormed full.params ∧
      Memory.wf full.oram = true := by decide +kernel

/-- FieldInverse and FieldSqrtRatio: sources 0 and not 0 in GF(p), a square ratio and one that is not. -/
theorem witness_fieldValues :
    (fe 4).gf ≠ 0 ∧ (fe 0).gf = 0 ∧ (∃ r : GF, r ^ 2 * (fe 1).gf = (fe 4).gf) ∧
      ¬∃ r : GF, r ^ 2 * (fe 1).gf = (fe 2).gf := by
  have h0 : (fe 0).gf = 0 := by rw [Fe.gf, show (fe 0).fval = 0 by decide +kernel, Nat.cast_zero]
  have h1 : (fe 1).gf = 1 := by rw [Fe.gf, show (fe 1).fval = 1 by decide +kernel, Nat.cast_one]
  have h2 : (fe 2).gf = (2 : Nat) := by rw [Fe.gf, show (fe 2).fval = 2 by decide +kernel]
  have h4 : (fe 4).gf = (4 : Nat) := by rw [Fe.gf, show (fe 4).fval = 4 by decide +kernel]
  refine ⟨(Fe.gf_ne_zero_iff _).2 (by decide +kernel), h0, ⟨2, ?_⟩, ?_⟩
  · rw [h1, h4]
    norm_num
  · rintro ⟨r, hr⟩
    rw [h1, h2, mul_one] at hr
    exact gf_not_square 2 (by decide +kernel) r hr

/-- The scalar and digit commands: scalars below 2^255, canonical or not, and a legal digit buffer. -/
theorem witness_scalar :
    (7 : RegNo).toNat < full.params.ns ∧ (7 : RegNo).toNat < full.params.nc ∧ full.readS 0 = some 3 ∧
      full.readS 2 = some 57896044618658097711785492504343953926634992332820282019728792003956564819967 ∧
      (57896044618658097711785492504343953926634992332820282019728792003956564819967 : Scalar).toNat < 2 ^ 255 ∧
      (Instr.scLd 7 63).WellFormed full.params ∧ (Instr.scLdw 7 62).WellFormed full.params ∧
      (Instr.scSt 2 63).WellFormed full.params ∧ (Instr.scMov 7 2).WellFormed full.params ∧
      (Instr.dgSt 0 56).WellFormed full.params ∧
      (full.readDG 0).any (fun g => decide g.Legal) = true ∧ (Instr.scRadix16 1 2).WellFormed full.params ∧
      (Instr.scRadix2w 1 2 4).WellFormed full.params ∧ (Instr.scRadix2w 1 2 8).WellFormed full.params ∧
      (Instr.scNaf 1 2 2).WellFormed full.params ∧ (Instr.scNaf 1 2 8).WellFormed full.params := by decide +kernel

/-! Curve points in GF(p), from natural numbers. -/

theorem onCurve_of_nat (x y : Nat)
    (h : y ^ 2 % p = (1 + feEdwardsD.fval * x ^ 2 * y ^ 2 + x ^ 2) % p) : OnCurve (x : GF) (y : GF) := by
  have := (gf_natCast_eq_iff _ _).2 h
  push_cast at this
  simp only [OnCurve, gfD, Fe.gf]
  linear_combination this

/-- No point of the curve has a `y` for which `(y² − 1)(d y² + 1)` is no square. -/
theorem not_onCurve_of_nat (y : Nat)
    (h : modPow p 256 ((y ^ 2 + (p - 1)) * (feEdwardsD.fval * y ^ 2 + 1) % p) ((p - 1) / 2) 1 = p - 1) (x : GF) :
    ¬OnCurve x (y : GF) := by
  intro hc
  refine gf_not_square _ h (x * (gfD * y ^ 2 + 1)) ?_
  have hp : ((p - 1 : Nat) : GF) = -1 := by
    have := (gf_natCast_eq_iff (p - 1 + 1) 0).2 (by decide +kernel)
    push_cast at this
    linear_combination this
  rw [(gf_natCast_eq_iff _ ((y ^ 2 + (p - 1)) * (feEdwardsD.fval * y ^ 2 + 1))).2 (Nat.mod_mod _ _)]
  push_cast
  rw [hp]
  simp only [OnCurve, gfD, Fe.gf] at hc ⊢
  linear_combination (-(feEdwardsD.fval : GF) * y ^ 2 - 1) * hc

/-- PointDecompression: a slot with the basepoint's `y` and its `x`; a `y` of no point; `x = 0` with sign bit 1 on an
instance that rejects it. -/
theorem witness_decompression :
    (Instr.ptDecomp 7 7 63).WellFormed full.params ∧
      (le (memRead full.oram 0 32) = 46316835694926478169428394003475163141307993866256225615783033603165251855960 ∧
        OnCurve ((15112221349535400772501151409588531511454012693041857206046113283949847762202 : Nat) : GF)
          ((46316835694926478169428394003475163141307993866256225615783033603165251855960 : Nat) : GF) ∧
        ((15112221349535400772501151409588531511454012693041857206046113283949847762202 : Nat) : GF).val % 2 = 0) ∧
      (∀ x : GF, ¬OnCurve x ((2 : Nat) : GF)) ∧
      (Instr.ptDecomp 7 7 63).WellFormed rejecting.params ∧ rejecting.params.rejectNegZero = true ∧
      OnCurve 0 ((1 : Nat) : GF) ∧ 2 ^ 255 ≤ le (memRead (slot 0 (2 ^ 255 + 1)) 0 32) := by
  refine ⟨by decide, ⟨by decide +kernel, onCurve_of_nat _ _ (by decide +kernel), ?_⟩,
    not_onCurve_of_nat 2 (by decide +kernel), by decide, rfl, ?_, by decide +kernel⟩
  · rw [ZMod.val_natCast]
    decide +kernel
  · simp [OnCurve]

/-- The point commands: registers 0 to 7, a content of each tag, limbs below 2^54, valid points. -/
theorem witness_points :
    (7 : RegNo).toNat < full.params.np ∧ (7 : RegNo).toNat < full.params.nc ∧ (Instr.ptComp 0 63).WellFormed full.params ∧
      (Instr.ptMov 7 5).WellFormed full.params ∧ (Instr.ptIssmall 7 0).WellFormed full.params ∧
      full.readP 0 = some (.ext extBase) ∧ full.readP 1 = some (.ext extIdentity) ∧
      full.readP 2 = some (.proj projIdentity) ∧ full.readP 3 = some (.compl ⟨feZero, feOne, feOne, feOne⟩) ∧
      full.readP 4 = some (.pniels pnielsIdentity) ∧ full.readP 5 = some (.aniels anielsIdentity) ∧
      (Point.ext extBase).tag = (Point.ext extIdentity).tag ∧ full.readC 0 = some true ∧ full.readC 1 = some false := by
  decide +kernel

/-- `full` with every choice bit EMPTY. -/
def noChoice : State := { full with C := List.replicate 8 none }

/-- PointNegSelect: PT_NEG where every choice bit is EMPTY, for each tag; the other three with a choice held. -/
theorem witness_negSelect :
    noChoice.readC 0 = none ∧ (Instr.ptNeg 7 0).WellFormed noChoice.params ∧
      noChoice.readP 0 = some (.ext extBase) ∧ noChoice.readP 4 = some (.pniels pnielsIdentity) ∧
      noChoice.readP 5 = some (.aniels anielsIdentity) ∧ (Instr.ptCneg 4 1).WellFormed full.params ∧
      (Instr.ptCsel 7 0 1 0).WellFormed full.params ∧ (Instr.ptCassign 1 0 1).WellFormed full.params := by
  decide +kernel

/-- The same: the bounds. -/
theorem witness_pointBounds :
    (extBase.Below 54 ∧ extIdentity.Below 54 ∧ projIdentity.Below 54) ∧
      Compl.Below 54 ⟨feZero, feOne, feOne, feOne⟩ ∧ pnielsIdentity.Below 54 ∧ anielsIdentity.Below 54 :=
  ⟨by decide +kernel, by decide +kernel, by decide +kernel, by decide +kernel⟩

/-- The valid points among them, for GroupLaw, PointTests, SmallOrderPoints, CompressionRoundTrip, GroupMultiples. -/
theorem witness_validPoints : extBase.gf.Valid ∧ extIdentity.gf.Valid :=
  ⟨base_valid, valid_of_fval _ (by decide +kernel) (by decide +kernel) (by decide +kernel)⟩

/-- The multipliers: scalars 0, 1 and 2^255 − 1, valid points, a pair list. -/
theorem witness_multipliers :
    (Instr.ptSmul 7 0 2).WellFormed full.params ∧ (Instr.ptDsmb 7 2 0 4).WellFormed full.params ∧
      (Instr.msmPush 2 0).WellFormed full.params ∧ (Instr.msmRun 7).WellFormed full.params ∧
      full.readP 0 = some (.ext extBase) ∧ extBase.Below 54 ∧
      full.readS 2 = some 57896044618658097711785492504343953926634992332820282019728792003956564819967 ∧
      (57896044618658097711785492504343953926634992332820282019728792003956564819967 : Scalar).toNat < 2 ^ 255 ∧
      full.readS 3 = some 1 ∧ full.readS 4 = some 0 ∧ (1 : Scalar).toNat = 1 ∧ (0 : Scalar).toNat = 0 ∧
      full.msm.length < full.params.msmCap ∧ full.msm ≠ [] ∧
      (∀ m ∈ full.msm, m.point.Below 54 ∧ m.scalar.toNat < 2 ^ 255) := by decide +kernel

/-- GroupMultiples: the pairs of the list are valid. -/
theorem witness_validPairs : ∀ m ∈ full.msm, m.point.gf.Valid := full_points.2

/-- Elligator2Map: a field element whose `eps` is a square (`r = 1`) and one whose `eps` is none (SQRT_M1), `dd` and
`eps` given as integers. -/
theorem witness_elligator2 :
    (Instr.ell2 15 1).WellFormed full.params ∧ full.readF 1 = some (fe 1) ∧ (fe 1).Below 54 ∧
      (∃ dd : GF, dd = -486662 * gfInv (1 + 2 * (fe 1).gf ^ 2) ∧
        ∃ r : GF, r ^ 2 = dd * (dd ^ 2 + 486662 * dd + 1)) ∧
      ∃ dd : GF, dd = -486662 * gfInv (1 + 2 * feSqrtM1.gf ^ 2) ∧
        ∀ r : GF, r ^ 2 ≠ dd * (dd ^ 2 + 486662 * dd + 1) := by
  have h1 : (fe 1).gf = 1 := by rw [Fe.gf, show (fe 1).fval = 1 by decide +kernel, Nat.cast_one]
  have hm : feSqrtM1.gf ^ 2 = -1 := by
    have := (gf_natCast_eq_iff (feSqrtM1.fval ^ 2 + 1) 0).2 (by decide +kernel)
    push_cast at this
    rw [Fe.gf]
    linear_combination this
  have hi : ∀ n v : Nat, modPow p 256 n (p - 2) 1 = v → gfInv (n : GF) = (v : GF) := fun n v h => by
    rw [gfInv, gf_natCast_pow _ _ (by decide +kernel), h]
  have hneg : ((p - 1 : Nat) : GF) = -1 := by
    have := (gf_natCast_eq_iff (p - 1 + 1) 0).2 (by decide +kernel)
    push_cast at this
    linear_combination this
  refine ⟨by decide, by decide +kernel, by decide +kernel, ⟨_, rfl, (30992548688866185731160829815745906339026709887328719897407902247730032325131 : Nat), ?_⟩, ⟨486662, ?_, fun r h => ?_⟩⟩
  · rw [h1, show (1 + 2 * 1 ^ 2 : GF) = ((3 : Nat) : GF) by norm_num, hi 3 38597363079105398474523661669562635951089994888546854679819194669304376546633 (by decide +kernel)]
    have := (gf_natCast_eq_iff (30992548688866185731160829815745906339026709887328719897407902247730032325131 ^ 2 + 486662 * 38597363079105398474523661669562635951089994888546854679819194669304376546633 * ((486662 * 38597363079105398474523661669562635951089994888546854679819194669304376546633) ^ 2 + 1)) (486662 * (486662 * 38597363079105398474523661669562635951089994888546854679819194669304376546633) ^ 2)).2
      (by decide +kernel)
    push_cast at this
    linear_combination this
  · rw [hm, show (1 + 2 * -1 : GF) = ((p - 1 : Nat) : GF) by rw [hneg]; norm_num,
      hi (p - 1) (p - 1) (by decide +kernel), hneg]
    norm_num
  · refine gf_not_square (486662 * (486662 ^ 2 + 486662 * 486662 + 1)) (by decide +kernel) r ?_
    rw [h]
    push_cast
    ring

/-- MontgomeryToEdwards: `u = 9`, the basepoint; `u = −1`; `u = 2`, of no curve point; `u = 0` with sign 1 on an
instance that rejects `x = 0` with sign bit 1. The values `y` are given as integers. -/
theorem witness_mtoe :
    (Instr.mtoe 7 3 0).WellFormed full.params ∧ full.readF 3 = some (fe 9) ∧ (fe 9).Below 54 ∧
      (((9 : Nat) : GF) ≠ -1 ∧
        (((9 : Nat) : GF) - 1) * gfInv (((9 : Nat) : GF) + 1) =
          ((46316835694926478169428394003475163141307993866256225615783033603165251855960 : Nat) : GF) ∧
        OnCurve ((15112221349535400772501151409588531511454012693041857206046113283949847762202 : Nat) : GF)
          ((46316835694926478169428394003475163141307993866256225615783033603165251855960 : Nat) : GF)) ∧
      (∀ x : GF, ¬OnCurve x ((((2 : Nat) : GF) - 1) * gfInv (((2 : Nat) : GF) + 1))) ∧
      (fe (p - 1)).gf = -1 ∧ (Instr.mtoe 7 4 1).WellFormed rejecting.params ∧
      rejecting.readF 4 = some (fe 0) ∧ OnCurve 0 (((0 : GF) - 1) * gfInv ((0 : GF) + 1)) := by
  have hi : ∀ n v : Nat, modPow p 256 n (p - 2) 1 = v → gfInv (n : GF) = (v : GF) := fun n v h => by
    rw [gfInv, gf_natCast_pow _ _ (by decide +kernel), h]
  have hneg : ((p - 1 : Nat) : GF) = -1 := by
    have := (gf_natCast_eq_iff (p - 1 + 1) 0).2 (by decide +kernel)
    push_cast at this
    linear_combination this
  refine ⟨by decide, by decide +kernel, by decide +kernel, ⟨?_, ?_, onCurve_of_nat _ _ (by decide +kernel)⟩, ?_, ?_,
    by decide, by decide +kernel, ?_⟩
  · rw [← hneg, Ne, gf_natCast_eq_iff]
    decide +kernel
  · rw [show (((9 : Nat) : GF) + 1) = ((10 : Nat) : GF) by norm_num, hi 10 5789604461865809771178549250434395392663499233282028201972879200395656481995 (by decide +kernel)]
    have := (gf_natCast_eq_iff (8 * 5789604461865809771178549250434395392663499233282028201972879200395656481995)
      46316835694926478169428394003475163141307993866256225615783033603165251855960).2 (by decide +kernel)
    push_cast at this ⊢
    linear_combination this
  · rw [show (((2 : Nat) : GF) + 1) = ((3 : Nat) : GF) by norm_num, hi 3 38597363079105398474523661669562635951089994888546854679819194669304376546633 (by decide +kernel),
      show (((2 : Nat) : GF) - 1) = 1 by norm_num, one_mul]
    exact not_onCurve_of_nat 38597363079105398474523661669562635951089994888546854679819194669304376546633 (by decide +kernel)
  · rw [Fe.gf, show (fe (p - 1)).fval = p - 1 by decide +kernel, hneg]
  · have h1 := hi 1 1 (by decide +kernel)
    rw [Nat.cast_one] at h1
    rw [zero_add, h1]
    simp [OnCurve]

/-- ElligatorChain: from a state with the invariant, the map and the conversion. -/
theorem witness_elligatorChain :
    full.Inv ∧ full.fault = false ∧ (Instr.ell2 15 0).WellFormed full.params ∧
      (Instr.mtoe 7 15 0).WellFormed full.params ∧ full.readF 0 = some (fe 4) ∧
      ∃ t, exec (.ell2 15 0) full = .next t :=
  ⟨full_inv, rfl, by decide, by decide, by decide +kernel, by
    simp only [exec, execEll2]
    exact command_next _ _ _⟩

/-- StepKeepsInv, StepKeepsPointsValid: a state with both invariants that takes a step; ResetHasInv. -/
theorem witness_invariants :
    full.Inv ∧ full.PointsValid ∧ (∃ t, step full = .next t) ∧ Params.default.Legal :=
  ⟨full_inv, full_points, ⟨_, rfl⟩, by decide⟩

/-- ResetState, SoftReset, HardReset: either reset; both levels of the input; both values of bit 0; an access during reset. -/
theorem witness_resets :
    full.resetBlock = full.resetBlock ∧ driveReset full true = driveReset full true ∧
      (busy [.write 0x030 1]).bus = .write 0x030 1 :: [] ∧ (busy [.write 0x030 2]).resetIn = false ∧
      (busy [.resetInput true]).bus = .resetInput true :: [] ∧ (busy [.resetInput false]).bus = .resetInput false :: [] ∧
      ({ State.reset with resetIn := true, bus := [.read 0] } : State).resetIn = true ∧
      ∀ level, BusEvent.read 0 ≠ .resetInput level :=
  ⟨rfl, rfl, rfl, rfl, rfl, rfl, rfl, fun _ h => by cases h⟩

/-- HostAccesses and OramWindow: each clause at the ends of its range. -/
theorem witness_accesses :
    (busy [.otherWidth 0x800 8]).resetIn = false ∧ 0x803 % 4 ≠ 0 ∧ windowEnd full.params = 0x1000 ∧ 0x1000 % 4 = 0 ∧
      0xFFC < windowEnd full.params ∧ 0xFFC % 4 = 0 ∧ 0x7FC % 4 = 0 ∧ 0x7FC < 0x800 ∧ 0x000 < 0x800 ∧
      511 < 8 * full.params.nslot ∧ Memory.wf full.oram = true ∧ 63 < full.params.nslot ∧
      (List.replicate 8 (7 : Word)).length = 8 := by decide +kernel

/-- The smallest instance of 00_scope.md R6 with every register written: fewer registers than the default. -/
def smallest : State :=
  { State.resetOf ⟨1, 1, 1, 1, 1, 8, 1, false⟩ with
    F := [some (fe 1)], S := [some 1], P := [some pointB], C := [some true], DG := [full.DG.getD 0 none] }

/-- StatusRegisters, MirrorRegisters: a state with the invariant, legal parameters at both ends. -/
theorem witness_registers : full.Inv ∧ State.reset.params.Legal ∧ smallest.params.Legal :=
  ⟨full_inv, by decide, by decide⟩

/-- The mirrors of the smallest instance: its own registers, and 0 elsewhere by the model's choice (log entry 20). -/
theorem test_mirrors_smallest :
    (hostRead smallest 0x028, hostRead smallest 0x034, hostRead smallest 0x038) =
      (0x00000101, 0x00000001, 0x01010001) := by decide +kernel

end Sys2Proof.Machine.Tests
end

/-! SUPPORT. What a command does to the state, as data: the list of writes its sources lead to, or its fault
(40_system_choice.md R130, 30_encoding.md R105). `exec_eq` ties it to every arm of `exec`; what a command changes, leaves
alone and depends on is then read off its writes. -/
namespace Sys2Proof.Machine

/-- One write of a command to the architectural state. -/
inductive Write where
  | f (n : RegNo) (v : Fe)
  | s (n : RegNo) (v : Scalar)
  | p (n : RegNo) (v : Option Point)
  | c (n : RegNo) (v : Bool)
  | dg (n : RegNo) (v : Digits)
  | slots (slot : Imm) (v : List Byte)
  | msm (l : List MsmPair)

/-- The state after one write. -/
def State.apply (s : State) : Write → State
  | .f n v => s.writeF n v
  | .s n v => s.writeS n v
  | .p n v => s.setP n v
  | .c n v => s.writeC n v
  | .dg n v => s.writeDG n v
  | .slots i v => s.writeSlots i v
  | .msm l => { s with msm := l }

/-- The state after a list of writes, the first one first. -/
def State.applyAll (s : State) (ws : List Write) : State := ws.foldl State.apply s

@[simp] theorem State.applyAll_nil (s : State) : s.applyAll [] = s := rfl
@[simp] theorem State.applyAll_cons (s : State) (w : Write) (ws : List Write) :
    s.applyAll (w :: ws) = (s.apply w).applyAll ws := rfl

/-! ### The shapes of commands: which sources are read, in the order of 60_exceptions.md R404, R408 -/

/-- One field source. -/
def withF (s : State) (a : RegNo) (k : Fe → List Write) : Except FaultCode (List Write) := do
  let x ← s.srcF a
  return k x

/-- Two field sources. -/
def withFF (s : State) (a b : RegNo) (k : Fe → Fe → List Write) : Except FaultCode (List Write) := do
  let x ← s.srcF a
  let y ← s.srcF b
  return k x y

/-- One scalar source. -/
def withS (s : State) (a : RegNo) (k : Scalar → List Write) : Except FaultCode (List Write) := do
  let x ← s.srcS a
  return k x

/-- Two scalar sources. -/
def withSS (s : State) (a b : RegNo) (k : Scalar → Scalar → List Write) : Except FaultCode (List Write) := do
  let x ← s.srcS a
  let y ← s.srcS b
  return k x y

/-- Two choice sources. -/
def withCC (s : State) (a b : RegNo) (k : Bool → Bool → List Write) : Except FaultCode (List Write) := do
  let x ← s.srcC a
  let y ← s.srcC b
  return k x y

/-- One `EXT` source. -/
def withExt (s : State) (a : RegNo) (k : Ext → List Write) : Except FaultCode (List Write) := do
  let q ← s.srcP a
  let e ← q.asExt
  return k e

/-- Two `EXT` sources. -/
def withExtExt (s : State) (a b : RegNo) (k : Ext → Ext → List Write) : Except FaultCode (List Write) := do
  let q ← s.srcP a
  let r ← s.srcP b
  let e ← q.asExt
  let e' ← r.asExt
  return k e e'

/-- One `PROJ` source. -/
def withProj (s : State) (a : RegNo) (k : Proj → List Write) : Except FaultCode (List Write) := do
  let q ← s.srcP a
  let e ← q.asProj
  return k e

/-- One `COMPL` source. -/
def withCompl (s : State) (a : RegNo) (k : Compl → List Write) : Except FaultCode (List Write) := do
  let q ← s.srcP a
  let e ← q.asCompl
  return k e

/-- The writes of a command that passes its checks, or its fault: one arm per row of 30_encoding.md R107. -/
def writes : Instr → State → Except FaultCode (List Write)
  | .nop, _ => .ok []
  | .chSet d imm, _ => .ok [.c d (bitOfImm imm)]
  | .chNot d a, s => do
    let x ← s.srcC a
    return [.c d (choiceNot x)]
  | .chAnd d a b, s => withCC s a b fun x y => [.c d (choiceAnd x y)]
  | .chOr d a b, s => withCC s a b fun x y => [.c d (choiceOr x y)]
  | .chXor d a b, s => withCC s a b fun x y => [.c d (choiceXor x y)]
  | .feLd d imm, s => .ok [.f d (feFromBytes (s.readSlots imm 1))]
  | .feSt a imm, s => withF s a fun x => [.slots imm (feToBytes x)]
  | .feConst d imm, _ => .ok [.f d (feConstOf imm.toNat)]
  | .feMov d a, s => withF s a fun x => [.f d x]
  | .feAdd d a b, s => withFF s a b fun x y => [.f d (feAdd x y)]
  | .feSub d a b, s => withFF s a b fun x y => [.f d (feSub x y)]
  | .feNeg d a, s => withF s a fun x => [.f d (feNeg x)]
  | .feMul d a b, s => withFF s a b fun x y => [.f d (feMul x y)]
  | .feSq d a, s => withF s a fun x => [.f d (feSq x)]
  | .feSq2 d a, s => withF s a fun x => [.f d (feSq2 x)]
  | .fePow2k d a imm, s => withF s a fun x => [.f d (fePow2k x imm.toNat)]
  | .feInv d a, s => withF s a fun x => [.f d (feInvert x)]
  | .fePowp58 d a, s => withF s a fun x => [.f d (fePowP58 x)]
  | .fePow22501 d a b, s => withF s b fun x => [.f d (fePow22501 x).1, .f a (fePow22501 x).2]
  | .feSqrtri d a b c, s => withFF s a b fun u v => [.f d (feSqrtRatio u v).2, .c c (feSqrtRatio u v).1]
  | .feRed d a, s => withF s a fun x => [.f d (feFromBytes (feToBytes x))]
  | .feCsel d a b c, s => do
    let x ← s.srcF a
    let y ← s.srcF b
    let k ← s.srcC c
    return [.f d (feSelect x y k)]
  | .feCneg d c, s => do
    let k ← s.srcC c
    let x ← s.srcF d
    return [.f d (feCneg x k)]
  | .feCassign d a c, s => do
    let y ← s.srcF a
    let k ← s.srcC c
    let x ← s.srcF d
    return [.f d (feCassign x y k)]
  | .feEq d a b, s => withFF s a b fun x y => [.c d (feCtEq x y)]
  | .feIsneg d a, s => withF s a fun x => [.c d (feIsNegative x)]
  | .feIszero d a, s => withF s a fun x => [.c d (feIsZero x)]
  | .scLd d imm, s => .ok [.s d (BitVec.ofNat 256 (le (s.readSlots imm 1) % 2 ^ 255))]
  | .scLdw d imm, s => .ok [.s d (scFromWide (le (s.readSlots imm 2)))]
  | .scSt a imm, s => withS s a fun x => [.slots imm (leBytes 32 x.toNat)]
  | .scMov d a, s => withS s a fun x => [.s d x]
  | .scAdd d a b, s => withSS s a b fun x y => [.s d (scAdd x y)]
  | .scSub d a b, s => withSS s a b fun x y => [.s d (scSub x y)]
  | .scMul d a b, s => withSS s a b fun x y => [.s d (scMul x y)]
  | .scNeg d a, s => withS s a fun x => [.s d (scNeg x)]
  | .scRed d a, s => withS s a fun x => [.s d (scReduce x)]
  | .scIscanon d a, s => withS s a fun x => [.c d (scIsCanon x)]
  | .scMmul d a b, s => withSS s a b fun x y => [.s d (scMmul x y)]
  | .scTomont d a, s => withS s a fun x => [.s d (scToMont x)]
  | .scFrommont d a, s => withS s a fun x => [.s d (scFromMont x)]
  | .scRadix16 d a, s => withS s a fun x => [.dg d (Digits.ofList (scRadix16 x.toNat))]
  | .scRadix2w d a imm, s => withS s a fun x => [.dg d (Digits.ofList (scRadix2w x.toNat imm.toNat))]
  | .scNaf d a imm, s => withS s a fun x => [.dg d (Digits.ofList (scNaf x.toNat imm.toNat))]
  | .dgSt a imm, s => do
    let g ← s.srcDG a
    return [.slots imm g.dig]
  | .ptIdent d, _ => .ok [.p d (some (.ext extIdentity))]
  | .ptBase d, _ => .ok [.p d (some (.ext extBase))]
  | .ptMov d a, s => do
    let q ← s.srcP a
    return [.p d (some q)]
  | .ptDecomp d a imm, s =>
    let r := decompress s.params.rejectNegZero (s.readSlots imm 1)
    .ok [.c a r.isSome, .p d (r.map .ext)]
  | .ptComp a imm, s => withExt s a fun e => [.slots imm (compress e)]
  | .ptE2p d a, s => withExt s a fun e => [.p d (some (.proj (e2p e)))]
  | .ptE2pn d a, s => withExt s a fun e => [.p d (some (.pniels (e2pn e)))]
  | .ptE2an d a, s => withExt s a fun e => [.p d (some (.aniels (e2an e)))]
  | .ptP2e d a, s => withProj s a fun e => [.p d (some (.ext (p2e e)))]
  | .ptC2p d a, s => withCompl s a fun e => [.p d (some (.proj (c2p e)))]
  | .ptC2e d a, s => withCompl s a fun e => [.p d (some (.ext (c2e e)))]
  | .ptDbl d a, s => withProj s a fun e => [.p d (some (.compl (dbl e)))]
  | .ptAdd d a b, s => do
    let q ← s.srcP a
    let r ← s.srcP b
    let e ← q.asExt
    let t ← r.addTo e
    return [.p d (some (.compl t))]
  | .ptSub d a b, s => do
    let q ← s.srcP a
    let r ← s.srcP b
    let e ← q.asExt
    let t ← r.subFrom e
    return [.p d (some (.compl t))]
  | .ptNeg d a, s => do
    let q ← s.srcP a
    let r ← q.negate
    return [.p d (some r)]
  | .ptCsel d a b c, s => do
    let q ← s.srcP a
    let r ← s.srcP b
    let k ← s.srcC c
    let t ← q.select r k
    return [.p d (some t)]
  | .ptCneg d c, s => do
    let k ← s.srcC c
    let q ← s.srcP d
    let r ← q.condNegate k
    return [.p d (some r)]
  | .ptCassign d a c, s => do
    let r ← s.srcP a
    let k ← s.srcC c
    let q ← s.srcP d
    let t ← q.select r k
    return [.p d (some t)]
  | .ptEq d a b, s => withExtExt s a b fun e e' => [.c d (pointEq e e')]
  | .ptIssmall d a, s => withExt s a fun e => [.c d (isSmall e)]
  | .ptIsident d a, s => withExt s a fun e => [.c d (isIdent e)]
  | .ptMulcof d a, s => withExt s a fun e => [.p d (some (.ext (mulcof e)))]
  | .ptEadd d a b, s => withExtExt s a b fun e e' => [.p d (some (.ext (eadd e e')))]
  | .ptEsub d a b, s => withExtExt s a b fun e e' => [.p d (some (.ext (esub e e')))]
  | .ptEdbl d a, s => withExt s a fun e => [.p d (some (.ext (edbl e)))]
  | .ptSmul d a b, s => do
    let q ← s.srcP a
    let n ← s.srcS b
    let e ← q.asExt
    return [.p d (some (.ext (smul e n.toNat)))]
  | .ptDsmb d a b c, s => do
    let m ← s.srcS a
    let q ← s.srcP b
    let n ← s.srcS c
    let e ← q.asExt
    return [.p d (some (.ext (dsmb m.toNat e n.toNat)))]
  | .msmClr, _ => .ok [.msm []]
  | .msmPush a b, s => do
    let n ← s.srcS a
    let q ← s.srcP b
    let e ← q.asExt
    if s.params.msmCap ≤ s.msm.length then .error .msmFull else return [.msm (s.msm ++ [⟨n, e⟩])]
  | .msmRun d, s =>
    if s.msm.length = 0 then .error .msmEmpty else .ok [.p d (some (.ext (msmSum s.msm))), .msm []]
  | .ell2 d a, s => withF s a fun r => [.f d (elligator2 r)]
  | .mtoe d a imm, s => do
    let u ← s.srcF a
    let e ← mtoePoint (montToEdwards s.params.rejectNegZero u (bitOfImm imm))
    return [.p d (some (.ext e))]

theorem map_ite_except {α β : Type} (c : Prop) [Decidable c] (g : α → β) (x y : Except FaultCode α) :
    g <$> (if c then x else y) = if c then g <$> x else g <$> y := by
  split <;> rfl

/-- Every arm of `exec` is the template of 40_system_choice.md R130 around the writes of its command. -/
theorem exec_eq (i : Instr) (s : State) : exec i s = command i s (s.applyAll <$> writes i s) := by
  cases i with
  | ptDecomp d a imm =>
    show command _ s (.ok (storeDecomp d a s _)) = command _ s (.ok (s.applyAll [_, _]))
    cases decompress s.params.rejectNegZero (s.readSlots imm 1) <;> rfl
  | msmPush a b => simp only [writes, map_bind, map_ite_except]; rfl
  | msmRun d => simp only [writes, map_ite_except]; rfl
  | _ => simp only [writes, withF, withFF, withS, withSS, withCC, withExt, withExtExt, withProj, withCompl, map_bind,
      map_pure]; rfl

end Sys2Proof.Machine

namespace Sys2Proof.Machine

/-! ### What a command answers, by its writes -/

/-- Everything a command can do: it takes a fault, or its writes are made and it retires (40_system_choice.md R130). -/
theorem exec_cases {i : Instr} {s t : State} (h : exec i s = .next t) :
    (∃ k, t = s.takeFault k (encode i)) ∨
      ∃ ws, i.check s.params = none ∧ writes i s = .ok ws ∧ t = (s.applyAll ws).retire := by
  rw [exec_eq] at h
  obtain ⟨k, -, ht⟩ | ⟨k, -, -, ht⟩ | ⟨u, hc, hu, ht⟩ := command_cases h
  · exact .inl ⟨k, ht⟩
  · exact .inl ⟨k, ht⟩
  · cases hw : writes i s with
    | error k => rw [hw] at hu; cases hu
    | ok ws => rw [hw] at hu; cases hu; exact .inr ⟨ws, hc, rfl, ht⟩

/-- A command always answers a next state (70_reset_and_hazards.md R448). -/
theorem exec_next (i : Instr) (s : State) : ∃ t, exec i s = .next t := by
  rw [exec_eq]
  exact command_next ..

/-- What none of the writes changes, the list of them does not change. -/
theorem State.applyAll_keeps {α : Type} (g : State → α) {ws : List Write} (h : ∀ w ∈ ws, ∀ s, g (s.apply w) = g s)
    (s : State) : g (s.applyAll ws) = g s := by
  induction ws generalizing s with
  | nil => rfl
  | cons w ws ih =>
    rw [State.applyAll_cons, ih fun w hw => h w (List.mem_cons_of_mem _ hw), h w (List.mem_cons_self ..)]

@[simp] theorem State.applyAll_params (s : State) (ws : List Write) : (s.applyAll ws).params = s.params :=
  State.applyAll_keeps State.params (fun w _ _ => by cases w <;> rfl) s
@[simp] theorem State.applyAll_cmdidx (s : State) (ws : List Write) : (s.applyAll ws).cmdidx = s.cmdidx :=
  State.applyAll_keeps State.cmdidx (fun w _ _ => by cases w <;> rfl) s
@[simp] theorem State.applyAll_fault (s : State) (ws : List Write) : (s.applyAll ws).fault = s.fault :=
  State.applyAll_keeps State.fault (fun w _ _ => by cases w <;> rfl) s
@[simp] theorem State.applyAll_faultcode (s : State) (ws : List Write) : (s.applyAll ws).faultcode = s.faultcode :=
  State.applyAll_keeps State.faultcode (fun w _ _ => by cases w <;> rfl) s
@[simp] theorem State.applyAll_faultcmd (s : State) (ws : List Write) : (s.applyAll ws).faultcmd = s.faultcmd :=
  State.applyAll_keeps State.faultcmd (fun w _ _ => by cases w <;> rfl) s
@[simp] theorem State.applyAll_faultidx (s : State) (ws : List Write) : (s.applyAll ws).faultidx = s.faultidx :=
  State.applyAll_keeps State.faultidx (fun w _ _ => by cases w <;> rfl) s
@[simp] theorem State.applyAll_resetIn (s : State) (ws : List Write) : (s.applyAll ws).resetIn = s.resetIn :=
  State.applyAll_keeps State.resetIn (fun w _ _ => by cases w <;> rfl) s
@[simp] theorem State.applyAll_bus (s : State) (ws : List Write) : (s.applyAll ws).bus = s.bus :=
  State.applyAll_keeps State.bus (fun w _ _ => by cases w <;> rfl) s
@[simp] theorem State.applyAll_readLog (s : State) (ws : List Write) : (s.applyAll ws).readLog = s.readLog :=
  State.applyAll_keeps State.readLog (fun w _ _ => by cases w <;> rfl) s

/-! ### What holds of the writes, by the sources they are made from -/

/-- If `x` answers a value, it has the property. -/
def Answers {α : Type} (P : α → Prop) (x : Except FaultCode α) : Prop := ∀ v, x = .ok v → P v

section
variable {α β : Type} {P : α → Prop}

@[simp] theorem answers_ok_iff (v : α) : Answers P (.ok v) ↔ P v := by simp [Answers]

@[simp] theorem answers_pure_iff (v : α) : Answers P (pure v) ↔ P v := answers_ok_iff v

@[simp] theorem answers_error (k : FaultCode) : Answers P (.error k : Except FaultCode α) := fun _ h => by cases h

@[simp] theorem answers_bind_iff (x : Except FaultCode β) (f : β → Except FaultCode α) :
    Answers P (x >>= f) ↔ Answers (fun b => Answers P (f b)) x := by
  cases x <;> simp [Answers, bind, Except.bind]

@[simp] theorem answers_map_iff (x : Except FaultCode β) (f : β → α) :
    Answers P (f <$> x) ↔ Answers (fun b => P (f b)) x := by
  cases x <;> simp [Answers, Functor.map, Except.map]

@[simp] theorem answers_true (x : Except FaultCode α) : Answers (fun _ => True) x := fun _ _ => trivial

@[simp] theorem answers_source_iff (o : Option α) : Answers P (source o) ↔ ∀ x, o = some x → P x := by
  cases o <;> simp [source]

@[simp] theorem answers_ite_iff (c : Prop) [Decidable c] (x y : Except FaultCode α) :
    Answers P (if c then x else y) ↔ (c → Answers P x) ∧ (¬c → Answers P y) := by
  split <;> simp [*]

end

@[simp] theorem answers_asExt_iff (P : Ext → Prop) (q : Point) : Answers P q.asExt ↔ ∀ e, q = .ext e → P e := by
  cases q <;> simp [Point.asExt]

@[simp] theorem answers_asProj_iff (P : Proj → Prop) (q : Point) : Answers P q.asProj ↔ ∀ e, q = .proj e → P e := by
  cases q <;> simp [Point.asProj]

@[simp] theorem answers_asCompl_iff (P : Compl → Prop) (q : Point) :
    Answers P q.asCompl ↔ ∀ e, q = .compl e → P e := by
  cases q <;> simp [Point.asCompl]

section
variable {P : List Write → Prop} (s : State) (a b : RegNo)

@[simp] theorem answers_withF_iff (k : Fe → List Write) :
    Answers P (withF s a k) ↔ ∀ x, s.readF a = some x → P (k x) := by
  simp [withF, State.srcF]

@[simp] theorem answers_withFF_iff (k : Fe → Fe → List Write) :
    Answers P (withFF s a b k) ↔ ∀ x, s.readF a = some x → ∀ y, s.readF b = some y → P (k x y) := by
  simp [withFF, State.srcF]

@[simp] theorem answers_withS_iff (k : Scalar → List Write) :
    Answers P (withS s a k) ↔ ∀ x, s.readS a = some x → P (k x) := by
  simp [withS, State.srcS]

@[simp] theorem answers_withSS_iff (k : Scalar → Scalar → List Write) :
    Answers P (withSS s a b k) ↔ ∀ x, s.readS a = some x → ∀ y, s.readS b = some y → P (k x y) := by
  simp [withSS, State.srcS]

@[simp] theorem answers_withCC_iff (k : Bool → Bool → List Write) :
    Answers P (withCC s a b k) ↔ ∀ x, s.readC a = some x → ∀ y, s.readC b = some y → P (k x y) := by
  simp [withCC, State.srcC]

@[simp] theorem answers_withExt_iff (k : Ext → List Write) :
    Answers P (withExt s a k) ↔ ∀ e, s.readP a = some (.ext e) → P (k e) := by
  simp only [withExt, State.srcP, answers_bind_iff, answers_source_iff, answers_asExt_iff, answers_pure_iff]
  exact ⟨fun h e he => h _ he e rfl, fun h q hq e he => h e (he ▸ hq)⟩

@[simp] theorem answers_withProj_iff (k : Proj → List Write) :
    Answers P (withProj s a k) ↔ ∀ e, s.readP a = some (.proj e) → P (k e) := by
  simp only [withProj, State.srcP, answers_bind_iff, answers_source_iff, answers_asProj_iff, answers_pure_iff]
  exact ⟨fun h e he => h _ he e rfl, fun h q hq e he => h e (he ▸ hq)⟩

@[simp] theorem answers_withCompl_iff (k : Compl → List Write) :
    Answers P (withCompl s a k) ↔ ∀ e, s.readP a = some (.compl e) → P (k e) := by
  simp only [withCompl, State.srcP, answers_bind_iff, answers_source_iff, answers_asCompl_iff, answers_pure_iff]
  exact ⟨fun h e he => h _ he e rfl, fun h q hq e he => h e (he ▸ hq)⟩

@[simp] theorem answers_withExtExt_iff (k : Ext → Ext → List Write) :
    Answers P (withExtExt s a b k) ↔
      ∀ e, s.readP a = some (.ext e) → ∀ e', s.readP b = some (.ext e') → P (k e e') := by
  simp only [withExtExt, State.srcP, answers_bind_iff, answers_source_iff, answers_asExt_iff, answers_pure_iff]
  exact ⟨fun h e he e' he' => h _ he _ he' e rfl e' rfl,
    fun h q hq r hr e he e' he' => h e (he ▸ hq) e' (he' ▸ hr)⟩

end

/-! ### The frame of a command -/

@[simp] theorem lanes_length (l : BitVec 64) (shifts : List Nat) : (lanes l shifts).length = shifts.length := by
  simp [lanes]

/-- `fe_tobytes` gives 32 bytes (41_field.md R158). -/
@[simp] theorem feToBytes_length (x : Fe) : (feToBytes x).length = 32 := by simp [feToBytes]

/-- A compressed point has 32 bytes (43_point.md R274). -/
@[simp] theorem compress_length (e : Ext) : (compress e).length = 32 := by simp [compress]

@[simp] theorem leBytes_length (n v : Nat) : (leBytes n v).length = n := by
  induction n generalizing v with
  | zero => rfl
  | succ n ih => simp [leBytes, ih]

/-- The digit buffer a DG_ST stores is one 10_state.md R40 allows. -/
def StoresLegal (i : Instr) (s : State) : Prop :=
  ∀ a imm g, i = .dgSt a imm → s.readDG a = some g → g.Legal

/-- A write is to what the command names: a destination, the bytes it stores to, the pair list (30_encoding.md R105). -/
def Write.Named (i : Instr) (s : State) : Write → Prop
  | .f n _ => .f n ∈ dests i
  | .s n _ => .s n ∈ dests i
  | .p n _ => .p n ∈ dests i
  | .c n _ => .c n ∈ dests i
  | .dg n _ => .dg n ∈ dests i
  | .slots imm v => StoresLegal i s → storeSpan i = some (slotAddr imm, v.length)
  | .msm _ => touchesMsm i = true

/-- A command writes to nothing but what it names. -/
theorem writes_named (i : Instr) (s : State) : Answers (fun ws => ∀ w ∈ ws, w.Named i s) (writes i s) := by
  cases i with
  | dgSt a imm =>
    simp only [writes, State.srcDG, answers_bind_iff, answers_source_iff, answers_pure_iff, List.mem_singleton,
      forall_eq, Write.Named, storeSpan]
    intro g hg h
    rw [(h a imm g rfl hg).2.1]
  | _ => simp [writes, Write.Named, dests, storeSpan, touchesMsm]

theorem State.readP_setP_ne (s : State) (n m : RegNo) (v : Option Point) (h : m ≠ n) :
    (s.setP n v).readP m = s.readP m := by
  have : n.toNat ≠ m.toNat := fun e => h (BitVec.eq_of_toNat_eq e.symm)
  simp [State.readP, List.getD_eq_getElem?_getD, List.getElem?_set_ne this]

end Sys2Proof.Machine

namespace Sys2Proof.Machine

section
variable {i : Instr} {s u : State} {w : Write} {n : RegNo}

theorem Write.Named.readF_apply (hw : w.Named i s) (h : .f n ∉ dests i) : (u.apply w).readF n = u.readF n := by
  cases w with
  | f m v => exact State.readF_writeF_ne _ _ _ _ fun e => h (e ▸ hw)
  | _ => rfl

theorem Write.Named.readS_apply (hw : w.Named i s) (h : .s n ∉ dests i) : (u.apply w).readS n = u.readS n := by
  cases w with
  | s m v => exact State.readS_writeS_ne _ _ _ _ fun e => h (e ▸ hw)
  | _ => rfl

theorem Write.Named.readP_apply (hw : w.Named i s) (h : .p n ∉ dests i) : (u.apply w).readP n = u.readP n := by
  cases w with
  | p m v => exact State.readP_setP_ne _ _ _ _ fun e => h (e ▸ hw)
  | _ => rfl

theorem Write.Named.readC_apply (hw : w.Named i s) (h : .c n ∉ dests i) : (u.apply w).readC n = u.readC n := by
  cases w with
  | c m v => exact State.readC_writeC_ne _ _ _ _ fun e => h (e ▸ hw)
  | _ => rfl

theorem Write.Named.readDG_apply (hw : w.Named i s) (h : .dg n ∉ dests i) : (u.apply w).readDG n = u.readDG n := by
  cases w with
  | dg m v => exact State.readDG_writeDG_ne _ _ _ _ fun e => h (e ▸ hw)
  | _ => rfl

theorem Write.Named.msm_apply (hw : w.Named i s) (h : touchesMsm i = false) : (u.apply w).msm = u.msm := by
  cases w with
  | msm l => rw [Write.Named, h] at hw; cases hw
  | _ => rfl

theorem Write.Named.readByte_apply {x : Nat} (hw : w.Named i s) (hs : StoresLegal i s)
    (h : ∀ a n, storeSpan i = some (a, n) → x < a ∨ a + n ≤ x) :
    readByte (u.apply w).oram x = readByte u.oram x := by
  cases w with
  | slots imm v => exact readByte_memWrite_outside _ _ _ _ (h _ _ (hw hs))
  | _ => rfl

end

/-- Settles O15: a fault writes the record alone, and of the writes of a command each leaves alone what it does not
name. -/
theorem frameOfCommands : Obligations.FrameOfCommands := by
  unfold Obligations.FrameOfCommands
  intro i s t h
  obtain ⟨k, rfl⟩ | ⟨ws, -, hws, rfl⟩ := exec_cases h
  · exact ⟨fun _ _ => rfl, fun _ _ => rfl, fun _ _ => rfl, fun _ _ => rfl, fun _ _ => rfl, fun _ => rfl,
      fun _ _ _ => rfl, rfl, rfl, rfl, rfl, .inr ⟨k, rfl⟩⟩
  · have hn : ∀ w ∈ ws, w.Named i s := writes_named i s ws hws
    refine ⟨fun n hd => ?_, fun n hd => ?_, fun n hd => ?_, fun n hd => ?_, fun n hd => ?_, fun hm => ?_,
      fun hs x hx => ?_, by simp, by simp, by simp, by simp, .inl (by simp)⟩
    · exact State.applyAll_keeps (·.readF n) (fun w hw u => (hn w hw).readF_apply hd) s
    · exact State.applyAll_keeps (·.readS n) (fun w hw u => (hn w hw).readS_apply hd) s
    · exact State.applyAll_keeps (·.readP n) (fun w hw u => (hn w hw).readP_apply hd) s
    · exact State.applyAll_keeps (·.readC n) (fun w hw u => (hn w hw).readC_apply hd) s
    · exact State.applyAll_keeps (·.readDG n) (fun w hw u => (hn w hw).readDG_apply hd) s
    · exact State.applyAll_keeps (·.msm) (fun w hw u => (hn w hw).msm_apply hm) s
    · exact State.applyAll_keeps (readByte ·.oram x) (fun w hw u => (hn w hw).readByte_apply hs hx) s

/-! ### The command counter -/

/-- The state with another `cmdidx`. -/
def State.withCount (s : State) (c : BitVec 32) : State := { s with cmdidx := c }

/-- No command reads `cmdidx` (10_state.md R44). -/
theorem writes_withCount (i : Instr) (s : State) (c : BitVec 32) : writes i (s.withCount c) = writes i s := by
  cases i <;> rfl

theorem State.apply_withCount (s : State) (c : BitVec 32) (w : Write) :
    (s.withCount c).apply w = (s.apply w).withCount c := by
  cases w <;> rfl

theorem State.applyAll_withCount (s : State) (c : BitVec 32) (ws : List Write) :
    (s.withCount c).applyAll ws = (s.applyAll ws).withCount c := by
  induction ws generalizing s with
  | nil => rfl
  | cons w ws ih => rw [State.applyAll_cons, State.apply_withCount, ih]; rfl

/-- A command retires, counted, or takes its fault, which is not counted (10_state.md R44, R50). -/
theorem exec_count {i : Instr} {s t : State} (h : exec i s = .next t) :
    (∃ k, t = s.takeFault k (encode i)) ∨ (t.cmdidx = s.cmdidx + 1 ∧ t.fault = s.fault) := by
  obtain ⟨k, hk⟩ | ⟨ws, -, -, rfl⟩ := exec_cases h
  · exact .inl ⟨k, hk⟩
  · exact .inr ⟨by simp, by simp⟩

/-- From another `cmdidx` a command does the same, but for `cmdidx` and the `faultidx` of a fault (10_state.md R44). -/
theorem exec_withCount {i : Instr} {s t : State} (c : BitVec 32) (h : exec i s = .next t) :
    ∃ t', exec i (s.withCount c) = .next t' ∧ { t' with cmdidx := t.cmdidx, faultidx := t.faultidx } = t := by
  rw [exec_eq] at h
  rw [exec_eq, writes_withCount]
  obtain ⟨k, hc, rfl⟩ | ⟨k, hc, hw, rfl⟩ | ⟨u, hc, hw, rfl⟩ := command_cases h
  · exact ⟨_, command_of_check (s := s.withCount c) hc, rfl⟩
  · cases hws : writes i s with
    | ok ws => rw [hws] at hw; cases hw
    | error k' =>
      rw [hws] at hw
      cases hw
      exact ⟨_, command_of_error (s := s.withCount c) hc, rfl⟩
  · cases hws : writes i s with
    | error k => rw [hws] at hw; cases hw
    | ok ws =>
      rw [hws] at hw
      cases hw
      refine ⟨_, command_of_ok (s := s.withCount c) hc, ?_⟩
      rw [State.applyAll_withCount]
      simp [State.withCount, State.retire]

theorem hostWrite_cmdidx (s : State) (offset : Nat) (w : Word) :
    (hostWrite s offset w).cmdidx = s.cmdidx ∨ offset = ctrlOffset ∧ w.getLsbD 0 = true := by
  unfold hostWrite
  split
  · next h =>
    split
    · next hw => exact .inr ⟨h, hw⟩
    · exact .inl rfl
  · split <;> exact .inl rfl

/-- Everything a write to CMD does to the counter and the fault bit (10_state.md R44, R48). -/
theorem acceptWord_count {w : Word} {s t : State} (h : acceptWord w s = .next t) :
    t.cmdidx = s.cmdidx ∨ t.cmdidx = s.cmdidx + 1 ∧ s.fault = false ∧ t.fault = false := by
  obtain ⟨-, ha⟩ | ⟨-, k, -, ha⟩ | ⟨hf, i, -, ha⟩ := acceptWord_cases w s
  · obtain rfl := Host.Outcome.next.inj (ha.symm.trans h)
    exact .inl rfl
  · obtain rfl := Host.Outcome.next.inj (ha.symm.trans h)
    exact .inl rfl
  · obtain ⟨k, rfl⟩ | ⟨hc, ht⟩ := exec_count (ha.symm.trans h)
    · exact .inl rfl
    · exact .inr ⟨hc, hf, ht.trans hf⟩

/-- Everything a step does to the counter (10_state.md R44). -/
theorem step_count {s t : State} (h : step s = .next t) :
    t.cmdidx = s.cmdidx ∨
    (t.cmdidx = s.cmdidx + 1 ∧ s.fault = false ∧ t.fault = false ∧ ∃ w es, s.bus = .write cmdOffset w :: es) ∨
    (∃ w es, s.bus = .write ctrlOffset w :: es ∧ w.getLsbD 0 = true) ∨ ∃ es, s.bus = .resetInput true :: es := by
  obtain ⟨-, rfl⟩ | ⟨e, es, hb, he⟩ := step_cases h
  · exact .inl rfl
  · obtain ⟨o, rfl, -, -, -, rfl⟩ | ⟨w, rfl, -, ha⟩ | ⟨o, w, rfl, -, -, -, -, rfl⟩ | ⟨a, rfl, rfl⟩ :=
      busEvent_cases he
    · exact .inl rfl
    · exact (acceptWord_count ha).imp id fun ⟨hc, hf, ht⟩ => .inl ⟨hc, hf, ht, w, es, hb⟩
    · obtain hc | ⟨rfl, hw⟩ := hostWrite_cmdidx { s with bus := es } o w
      · exact .inl hc
      · exact .inr (.inr (.inl ⟨w, es, hb, hw⟩))
    · cases a with
      | false => exact .inl rfl
      | true => exact .inr (.inr (.inr ⟨es, hb⟩))

/-- Settles O16. -/
theorem commandCounter : Obligations.CommandCounter := by
  unfold Obligations.CommandCounter
  refine ⟨rfl, fun _ => rfl, fun _ => rfl, fun s t h => step_count h, fun i s t h => ?_, fun w s h => ?_,
    fun i s t c h => exec_withCount c h⟩
  · obtain ⟨k, rfl⟩ | ⟨hc, -⟩ := exec_count h
    · exact .inl ⟨⟨k, rfl⟩, rfl⟩
    · exact .inr (by rw [hc, BitVec.toNat_add]; rfl)
  · rw [acceptWord, if_pos h]

end Sys2Proof.Machine

/-! SUPPORT. The scalar datapath: every operation of 42_scalar.md R221 answers a canonical scalar. `sc_sub52` is exact;
of the Montgomery reduction its upper bound is enough, which no narrowing and no shift can exceed. -/
namespace Sys2Proof.Machine

/-! ### Unpacked scalars -/

theorem and_M52 (n : Nat) : n &&& M52 = n % 2 ^ 52 := Nat.and_two_pow_sub_one_eq_mod n 52

/-- Every limb is below 2^52. -/
def Unpacked.Norm (x : Unpacked) : Prop :=
  x.s0.toNat < 2 ^ 52 ∧ x.s1.toNat < 2 ^ 52 ∧ x.s2.toNat < 2 ^ 52 ∧ x.s3.toNat < 2 ^ 52 ∧ x.s4.toNat < 2 ^ 52

theorem Unpacked.Norm.value_lt {x : Unpacked} (h : x.Norm) : x.value < 2 ^ 260 := by
  obtain ⟨h0, h1, h2, h3, h4⟩ := h
  simp only [Unpacked.value]
  omega

theorem Unpacked.ofLimbs_limbs (n0 n1 n2 n3 n4 : Nat) :
    (Unpacked.ofLimbs n0 n1 n2 n3 n4).s0.toNat = n0 % 2 ^ 64 ∧ (Unpacked.ofLimbs n0 n1 n2 n3 n4).s1.toNat = n1 % 2 ^ 64 ∧
    (Unpacked.ofLimbs n0 n1 n2 n3 n4).s2.toNat = n2 % 2 ^ 64 ∧ (Unpacked.ofLimbs n0 n1 n2 n3 n4).s3.toNat = n3 % 2 ^ 64 ∧
    (Unpacked.ofLimbs n0 n1 n2 n3 n4).s4.toNat = n4 % 2 ^ 64 := by
  simp [Unpacked.ofLimbs]

/-- Limbs below 2^52 are not narrowed. -/
theorem Unpacked.ofLimbs_norm {n0 n1 n2 n3 n4 : Nat} (h0 : n0 < 2 ^ 52) (h1 : n1 < 2 ^ 52) (h2 : n2 < 2 ^ 52)
    (h3 : n3 < 2 ^ 52) (h4 : n4 < 2 ^ 52) :
    (Unpacked.ofLimbs n0 n1 n2 n3 n4).Norm ∧ (Unpacked.ofLimbs n0 n1 n2 n3 n4).value =
      n0 + n1 * 2 ^ 52 + n2 * 2 ^ 104 + n3 * 2 ^ 156 + n4 * 2 ^ 208 := by
  obtain ⟨e0, e1, e2, e3, e4⟩ := Unpacked.ofLimbs_limbs n0 n1 n2 n3 n4
  simp only [Unpacked.Norm, Unpacked.value, e0, e1, e2, e3, e4]
  omega

theorem scL_limbs : scL.s0.toNat = 0x0002631a5cf5d3ed ∧ scL.s1.toNat = 0x000dea2f79cd6581 ∧
    scL.s2.toNat = 0x000000000014def9 ∧ scL.s3.toNat = 0 ∧ scL.s4.toNat = 0x0000100000000000 := by decide

theorem scL_value : scL.value = ell := by decide
theorem scL_norm : scL.Norm := by unfold Unpacked.Norm; decide

/-! ### `sc_sub52` and `sc_add52` (R217, R218) -/

/-- One limb of a subtraction: the difference modulo 2^52 and the borrow, as the words `sc_sub52` keeps them. -/
theorem sub64_borrow {a b c : Nat} (ha : a < 2 ^ 52) (hb : b < 2 ^ 52) (hc : c ≤ 1) :
    sub64 a (u64 (b + c)) >>> 63 ≤ 1 ∧
      sub64 a (u64 (b + c)) % 2 ^ 52 + b + c = a + 2 ^ 52 * (sub64 a (u64 (b + c)) >>> 63) := by
  simp only [sub64, u64, Nat.shiftRight_eq_div_pow]
  omega

/-- The borrow chain subtracts, modulo 2^260, and its last word holds the borrow. -/
theorem scSubBorrow_spec {a b : Unpacked} (ha : a.Norm) (hb : b.Norm) :
    (scSubBorrow a b).1.Norm ∧ (scSubBorrow a b).2 >>> 63 ≤ 1 ∧
      (scSubBorrow a b).1.value + b.value = a.value + 2 ^ 260 * ((scSubBorrow a b).2 >>> 63) := by
  obtain ⟨a0, a1, a2, a3, a4⟩ := ha
  obtain ⟨b0, b1, b2, b3, b4⟩ := hb
  simp only [scSubBorrow, and_M52]
  obtain ⟨g0, e0⟩ := sub64_borrow a0 b0 (c := 0) (by omega)
  generalize sub64 a.s0.toNat (u64 (b.s0.toNat + 0)) = w0 at *
  obtain ⟨g1, e1⟩ := sub64_borrow a1 b1 g0
  generalize sub64 a.s1.toNat (u64 (b.s1.toNat + w0 >>> 63)) = w1 at *
  obtain ⟨g2, e2⟩ := sub64_borrow a2 b2 g1
  generalize sub64 a.s2.toNat (u64 (b.s2.toNat + w1 >>> 63)) = w2 at *
  obtain ⟨g3, e3⟩ := sub64_borrow a3 b3 g2
  generalize sub64 a.s3.toNat (u64 (b.s3.toNat + w2 >>> 63)) = w3 at *
  obtain ⟨g4, e4⟩ := sub64_borrow a4 b4 g3
  generalize sub64 a.s4.toNat (u64 (b.s4.toNat + w3 >>> 63)) = w4 at *
  obtain ⟨hn, hv⟩ := Unpacked.ofLimbs_norm (n0 := w0 % 2 ^ 52) (n1 := w1 % 2 ^ 52) (n2 := w2 % 2 ^ 52)
    (n3 := w3 % 2 ^ 52) (n4 := w4 % 2 ^ 52) (by omega) (by omega) (by omega) (by omega) (by omega)
  refine ⟨hn, g4, ?_⟩
  rw [hv]
  simp only [Unpacked.value]
  generalize w0 >>> 63 = k0, w1 >>> 63 = k1, w2 >>> 63 = k2, w3 >>> 63 = k3, w4 >>> 63 = k4 at *
  omega

/-- The addition chain of `sc_sub52` and `sc_add52` on five pairs of limbs. -/
def addLimbs (x y : Unpacked) : Unpacked × Nat :=
  let c0 := u64 (x.s0.toNat + y.s0.toNat)
  let c1 := u64 (x.s1.toNat + y.s1.toNat + (c0 >>> 52))
  let c2 := u64 (x.s2.toNat + y.s2.toNat + (c1 >>> 52))
  let c3 := u64 (x.s3.toNat + y.s3.toNat + (c2 >>> 52))
  let c4 := u64 (x.s4.toNat + y.s4.toNat + (c3 >>> 52))
  (.ofLimbs (c0 &&& M52) (c1 &&& M52) (c2 &&& M52) (c3 &&& M52) (c4 &&& M52), c4)

/-- The addition chain adds, modulo 2^260. -/
theorem addLimbs_spec {x y : Unpacked} (hx : x.Norm) (hy : y.Norm) :
    (addLimbs x y).1.Norm ∧ (addLimbs x y).1.value = (x.value + y.value) % 2 ^ 260 := by
  obtain ⟨x0, x1, x2, x3, x4⟩ := hx
  obtain ⟨y0, y1, y2, y3, y4⟩ := hy
  simp only [addLimbs, and_M52, Nat.shiftRight_eq_div_pow]
  have e0 : u64 (x.s0.toNat + y.s0.toNat) = x.s0.toNat + y.s0.toNat := Nat.mod_eq_of_lt (by omega)
  rw [e0]
  generalize hc0 : x.s0.toNat + y.s0.toNat = c0
  have e1 : u64 (x.s1.toNat + y.s1.toNat + c0 / 2 ^ 52) = x.s1.toNat + y.s1.toNat + c0 / 2 ^ 52 :=
    Nat.mod_eq_of_lt (by omega)
  rw [e1]
  generalize hc1 : x.s1.toNat + y.s1.toNat + c0 / 2 ^ 52 = c1
  have e2 : u64 (x.s2.toNat + y.s2.toNat + c1 / 2 ^ 52) = x.s2.toNat + y.s2.toNat + c1 / 2 ^ 52 :=
    Nat.mod_eq_of_lt (by omega)
  rw [e2]
  generalize hc2 : x.s2.toNat + y.s2.toNat + c1 / 2 ^ 52 = c2
  have e3 : u64 (x.s3.toNat + y.s3.toNat + c2 / 2 ^ 52) = x.s3.toNat + y.s3.toNat + c2 / 2 ^ 52 :=
    Nat.mod_eq_of_lt (by omega)
  rw [e3]
  generalize hc3 : x.s3.toNat + y.s3.toNat + c2 / 2 ^ 52 = c3
  have e4 : u64 (x.s4.toNat + y.s4.toNat + c3 / 2 ^ 52) = x.s4.toNat + y.s4.toNat + c3 / 2 ^ 52 :=
    Nat.mod_eq_of_lt (by omega)
  rw [e4]
  generalize hc4 : x.s4.toNat + y.s4.toNat + c3 / 2 ^ 52 = c4
  obtain ⟨hn, hv⟩ := Unpacked.ofLimbs_norm (n0 := c0 % 2 ^ 52) (n1 := c1 % 2 ^ 52) (n2 := c2 % 2 ^ 52)
    (n3 := c3 % 2 ^ 52) (n4 := c4 % 2 ^ 52) (by omega) (by omega) (by omega) (by omega) (by omega)
  refine ⟨hn, ?_⟩
  rw [hv]
  simp only [Unpacked.value]
  omega

/-- `L` where the subtraction went negative, else 0: what `sc_sub52` adds. -/
def maskedL (borrow : Nat) : Unpacked :=
  let mask := sub64 (borrow ^^^ 1) 1
  .ofLimbs (scL.s0.toNat &&& mask) (scL.s1.toNat &&& mask) (scL.s2.toNat &&& mask) (scL.s3.toNat &&& mask)
    (scL.s4.toNat &&& mask)

theorem maskedL_zero : maskedL 0 = scZero := by decide
theorem maskedL_one : maskedL 1 = scL := by decide

theorem scSub52_eq (a b : Unpacked) :
    scSub52 a b = (addLimbs (scSubBorrow a b).1 (maskedL ((scSubBorrow a b).2 >>> 63))).1 := by
  have hl (l : BitVec 64) (m : Nat) : (BitVec.ofNat 64 (l.toNat &&& m)).toNat = l.toNat &&& m := by
    rw [BitVec.toNat_ofNat]
    exact Nat.mod_eq_of_lt (Nat.and_le_left.trans_lt l.isLt)
  simp only [scSub52, addLimbs, maskedL, Unpacked.ofLimbs, hl, Nat.add_assoc, Nat.add_comm, Nat.add_left_comm]

/-- `sc_sub52` (R217): the difference, or `l` more where it is negative. -/
theorem scSub52_spec {a b : Unpacked} (ha : a.Norm) (hb : b.Norm) (h : b.value ≤ a.value + ell) :
    (scSub52 a b).Norm ∧
      (scSub52 a b).value = if a.value < b.value then a.value + ell - b.value else a.value - b.value := by
  obtain ⟨hn, hk, hv⟩ := scSubBorrow_spec ha hb
  rw [scSub52_eq]
  have va := ha.value_lt
  have vb := hb.value_lt
  have vd := hn.value_lt
  have hell : ell < 2 ^ 253 := by decide
  generalize (scSubBorrow a b).1 = d at *
  generalize (scSubBorrow a b).2 >>> 63 = k at *
  obtain rfl | rfl : k = 0 ∨ k = 1 := by omega
  · obtain ⟨sn, sv⟩ := addLimbs_spec hn (y := scZero) (by unfold Unpacked.Norm; decide)
    rw [maskedL_zero]
    refine ⟨sn, ?_⟩
    rw [sv, show scZero.value = 0 by decide, if_neg (by omega)]
    omega
  · obtain ⟨sn, sv⟩ := addLimbs_spec hn scL_norm
    rw [maskedL_one]
    refine ⟨sn, ?_⟩
    rw [sv, scL_value, if_pos (by omega)]
    omega

/-- `sc_add52` (R218) of a sum below 2^260. -/
theorem scAdd52_spec {a b : Unpacked} (ha : a.Norm) (hb : b.Norm) (h : a.value + b.value < 2 ^ 260) :
    (scAdd52 a b).Norm ∧
      (scAdd52 a b).value = if a.value + b.value < ell then a.value + b.value else a.value + b.value - ell := by
  obtain ⟨sn, sv⟩ := addLimbs_spec ha hb
  have e : scAdd52 a b = scSub52 (addLimbs a b).1 scL := rfl
  rw [Nat.mod_eq_of_lt h] at sv
  obtain ⟨rn, rv⟩ := scSub52_spec sn scL_norm (by rw [scL_value]; omega)
  rw [e]
  refine ⟨rn, ?_⟩
  rw [rv, scL_value, sv]
  split <;> omega

/-! ### Montgomery reduction and multiplication (R219 to R221) -/

/-- The integer of nine columns. -/
def Columns.value (z : Columns) : Nat :=
  z.z0 + z.z1 * 2 ^ 52 + z.z2 * 2 ^ 104 + z.z3 * 2 ^ 156 + z.z4 * 2 ^ 208 + z.z5 * 2 ^ 260 + z.z6 * 2 ^ 312 +
    z.z7 * 2 ^ 364 + z.z8 * 2 ^ 416

theorem u64_le (n : Nat) : u64 n ≤ n := Nat.mod_le ..
theorem u128_le (n : Nat) : u128 n ≤ n := Nat.mod_le ..

theorem u64_mod_52 (n : Nat) : u64 n % 2 ^ 52 = n % 2 ^ 52 := by
  unfold u64
  omega

theorem redQ_lt (t : Nat) : redQ t < 2 ^ 52 := by
  rw [redQ, and_M52]
  exact Nat.mod_lt _ (by decide)

/-- The carry of a quotient step is at most the quotient of its sum (R220). -/
theorem redC_le (t : Nat) : 2 ^ 52 * redC t ≤ t + redQ t * 0x0002631a5cf5d3ed := by
  have h := u128_le (t + redQ t * scL.s0.toNat)
  rw [scL_limbs.1] at h
  rw [redC, scL_limbs.1, Nat.shiftRight_eq_div_pow]
  omega

/-- The Montgomery reduction of columns below `2^260 l` is canonical (R220): before its last subtraction the sum is at
most `(z + m l) / 2^260` for a quotient `m` below 2^260, so below `2 l`. -/
theorem scMontgomeryReduce_canonical {z : Columns} (h : z.value < 2 ^ 260 * ell) :
    (scMontgomeryReduce z).Norm ∧ (scMontgomeryReduce z).value < ell := by
  obtain ⟨-, l1, l2, -, l4⟩ := scL_limbs
  simp only [scMontgomeryReduce, l1, l2, l4, and_M52, u64_mod_52, Nat.shiftRight_eq_div_pow]
  have g0 := u128_le z.z0
  generalize u128 z.z0 = t0 at *
  have q0 := redQ_lt t0
  have r0 := redC_le t0
  generalize redQ t0 = n0, redC t0 = c0 at *
  have g1 := u128_le (c0 + z.z1 + n0 * 0x000dea2f79cd6581)
  generalize u128 (c0 + z.z1 + n0 * 0x000dea2f79cd6581) = t1 at *
  have q1 := redQ_lt t1
  have r1 := redC_le t1
  generalize redQ t1 = n1, redC t1 = c1 at *
  have g2 := u128_le (c1 + z.z2 + n0 * 0x000000000014def9 + n1 * 0x000dea2f79cd6581)
  generalize u128 (c1 + z.z2 + n0 * 0x000000000014def9 + n1 * 0x000dea2f79cd6581) = t2 at *
  have q2 := redQ_lt t2
  have r2 := redC_le t2
  generalize redQ t2 = n2, redC t2 = c2 at *
  have g3 := u128_le (c2 + z.z3 + n1 * 0x000000000014def9 + n2 * 0x000dea2f79cd6581)
  generalize u128 (c2 + z.z3 + n1 * 0x000000000014def9 + n2 * 0x000dea2f79cd6581) = t3 at *
  have q3 := redQ_lt t3
  have r3 := redC_le t3
  generalize redQ t3 = n3, redC t3 = c3 at *
  have g4 := u128_le (c3 + z.z4 + n0 * 0x0000100000000000 + n2 * 0x000000000014def9 + n3 * 0x000dea2f79cd6581)
  generalize u128 (c3 + z.z4 + n0 * 0x0000100000000000 + n2 * 0x000000000014def9 + n3 * 0x000dea2f79cd6581) = t4 at *
  have q4 := redQ_lt t4
  have r4 := redC_le t4
  generalize redQ t4 = n4, redC t4 = c4 at *
  have g5 := u128_le (c4 + z.z5 + n1 * 0x0000100000000000 + n3 * 0x000000000014def9 + n4 * 0x000dea2f79cd6581)
  generalize u128 (c4 + z.z5 + n1 * 0x0000100000000000 + n3 * 0x000000000014def9 + n4 * 0x000dea2f79cd6581) = t5 at *
  have g6 := u128_le (t5 / 2 ^ 52 + z.z6 + n2 * 0x0000100000000000 + n4 * 0x000000000014def9)
  generalize u128 (t5 / 2 ^ 52 + z.z6 + n2 * 0x0000100000000000 + n4 * 0x000000000014def9) = t6 at *
  have g7 := u128_le (t6 / 2 ^ 52 + z.z7 + n3 * 0x0000100000000000)
  generalize u128 (t6 / 2 ^ 52 + z.z7 + n3 * 0x0000100000000000) = t7 at *
  have g8 := u128_le (t7 / 2 ^ 52 + z.z8 + n4 * 0x0000100000000000)
  generalize u128 (t7 / 2 ^ 52 + z.z8 + n4 * 0x0000100000000000) = t8 at *
  have bound : t5 % 2 ^ 52 + t6 % 2 ^ 52 * 2 ^ 52 + t7 % 2 ^ 52 * 2 ^ 104 + t8 % 2 ^ 52 * 2 ^ 156 +
      t8 / 2 ^ 52 * 2 ^ 208 < 2 * ell := by
    simp only [Columns.value, ell] at h ⊢
    omega
  have hell : ell < 2 ^ 253 := by decide
  obtain ⟨hn, hv⟩ := Unpacked.ofLimbs_norm (n0 := t5 % 2 ^ 52) (n1 := t6 % 2 ^ 52) (n2 := t7 % 2 ^ 52)
    (n3 := t8 % 2 ^ 52) (n4 := t8 / 2 ^ 52) (by omega) (by omega) (by omega) (by omega) (by omega)
  obtain ⟨rn, rv⟩ := scSub52_spec hn scL_norm (by rw [scL_value]; omega)
  refine ⟨rn, ?_⟩
  rw [rv, scL_value, hv]
  split <;> omega

/-- The schoolbook product in any base. -/
theorem columns_mul (r a0 a1 a2 a3 a4 b0 b1 b2 b3 b4 : Nat) :
    (a0 + a1 * r + a2 * r ^ 2 + a3 * r ^ 3 + a4 * r ^ 4) * (b0 + b1 * r + b2 * r ^ 2 + b3 * r ^ 3 + b4 * r ^ 4) =
      a0 * b0 + (a0 * b1 + a1 * b0) * r + (a0 * b2 + a1 * b1 + a2 * b0) * r ^ 2 +
        (a0 * b3 + a1 * b2 + a2 * b1 + a3 * b0) * r ^ 3 + (a0 * b4 + a1 * b3 + a2 * b2 + a3 * b1 + a4 * b0) * r ^ 4 +
        (a1 * b4 + a2 * b3 + a3 * b2 + a4 * b1) * r ^ 5 + (a2 * b4 + a3 * b3 + a4 * b2) * r ^ 6 +
        (a3 * b4 + a4 * b3) * r ^ 7 + a4 * b4 * r ^ 8 := by ring

/-- The columns of a product are those of the integer product, narrowing apart (R219). -/
theorem scMulInternal_le (x y : Unpacked) : (scMulInternal x y).value ≤ x.value * y.value := by
  calc (scMulInternal x y).value
      ≤ x.s0.toNat * y.s0.toNat + (x.s0.toNat * y.s1.toNat + x.s1.toNat * y.s0.toNat) * 2 ^ 52 +
        (x.s0.toNat * y.s2.toNat + x.s1.toNat * y.s1.toNat + x.s2.toNat * y.s0.toNat) * 2 ^ 104 +
        (x.s0.toNat * y.s3.toNat + x.s1.toNat * y.s2.toNat + x.s2.toNat * y.s1.toNat + x.s3.toNat * y.s0.toNat) *
          2 ^ 156 +
        (x.s0.toNat * y.s4.toNat + x.s1.toNat * y.s3.toNat + x.s2.toNat * y.s2.toNat + x.s3.toNat * y.s1.toNat +
          x.s4.toNat * y.s0.toNat) * 2 ^ 208 +
        (x.s1.toNat * y.s4.toNat + x.s2.toNat * y.s3.toNat + x.s3.toNat * y.s2.toNat + x.s4.toNat * y.s1.toNat) *
          2 ^ 260 +
        (x.s2.toNat * y.s4.toNat + x.s3.toNat * y.s3.toNat + x.s4.toNat * y.s2.toNat) * 2 ^ 312 +
        (x.s3.toNat * y.s4.toNat + x.s4.toNat * y.s3.toNat) * 2 ^ 364 + x.s4.toNat * y.s4.toNat * 2 ^ 416 := by
        simp only [scMulInternal, Columns.value]
        gcongr <;> exact u128_le _
    _ = x.value * y.value := by
        have h := columns_mul (2 ^ 52) x.s0.toNat x.s1.toNat x.s2.toNat x.s3.toNat x.s4.toNat y.s0.toNat y.s1.toNat
          y.s2.toNat y.s3.toNat y.s4.toNat
        simp only [← pow_mul, Nat.reduceMul] at h
        exact h.symm

/-- An unpacked scalar in canonical form. -/
def Unpacked.Canonical (x : Unpacked) : Prop := x.Norm ∧ x.value < ell

/-- One Montgomery multiplication is canonical (R221). -/
theorem scMM_canonical {x y : Unpacked} (h : x.value * y.value < 2 ^ 260 * ell) : (scMM x y).Canonical :=
  scMontgomeryReduce_canonical ((scMulInternal_le x y).trans_lt h)

theorem scMM_canonical_of_norm {x y : Unpacked} (hx : x.Norm) (hy : y.value < ell) : (scMM x y).Canonical :=
  scMM_canonical (Nat.mul_lt_mul'' hx.value_lt hy)

theorem scR_lt : scR.value < ell := by decide
theorem scRR_lt : scRR.value < ell := by decide

/-! ### Packing (R215, R216) -/

/-- The low bits of one word beside the high bits of the next. -/
theorem or_u64_shift {x k : Nat} (y : Nat) (hx : x < 2 ^ k) (hk : k ≤ 64) :
    x ||| u64 (y <<< k) = x + y % 2 ^ (64 - k) * 2 ^ k := by
  have e : u64 (y <<< k) = (y % 2 ^ (64 - k)) <<< k := by
    rw [u64, Nat.shiftLeft_eq, Nat.shiftLeft_eq, show (2 : Nat) ^ 64 = 2 ^ (64 - k) * 2 ^ k by
      rw [← pow_add]; congr 1; omega, Nat.mul_mod_mul_right]
  rw [e, Nat.or_comm, ← Nat.shiftLeft_add_eq_or_of_lt hx, Nat.shiftLeft_eq, Nat.add_comm]

/-- `sc_unpack` keeps the integer (R215). -/
theorem scUnpack_spec (n : Scalar) : (scUnpack n).Norm ∧ (scUnpack n).value = n.toNat := by
  have hn := n.isLt
  simp only [scUnpack, word64, and_M52, Nat.and_two_pow_sub_one_eq_mod, Nat.shiftRight_eq_div_pow]
  have w0 : u64 (n.toNat / 2 ^ (64 * 0)) = n.toNat % 2 ^ 64 := by simp [u64]
  have w1 : u64 (n.toNat / 2 ^ (64 * 1)) = n.toNat / 2 ^ 64 % 2 ^ 64 := rfl
  have w2 : u64 (n.toNat / 2 ^ (64 * 2)) = n.toNat / 2 ^ 128 % 2 ^ 64 := rfl
  have w3 : u64 (n.toNat / 2 ^ (64 * 3)) = n.toNat / 2 ^ 192 % 2 ^ 64 := rfl
  rw [w0, w1, w2, w3, or_u64_shift _ (by omega) (by decide), or_u64_shift _ (by omega) (by decide),
    or_u64_shift _ (by omega) (by decide)]
  obtain ⟨hnorm, hv⟩ := Unpacked.ofLimbs_norm
    (n0 := n.toNat % 2 ^ 64 % 2 ^ 52)
    (n1 := (n.toNat % 2 ^ 64 / 2 ^ 52 + n.toNat / 2 ^ 64 % 2 ^ 64 % 2 ^ (64 - 12) * 2 ^ 12) % 2 ^ 52)
    (n2 := (n.toNat / 2 ^ 64 % 2 ^ 64 / 2 ^ 40 + n.toNat / 2 ^ 128 % 2 ^ 64 % 2 ^ (64 - 24) * 2 ^ 24) % 2 ^ 52)
    (n3 := (n.toNat / 2 ^ 128 % 2 ^ 64 / 2 ^ 28 + n.toNat / 2 ^ 192 % 2 ^ 64 % 2 ^ (64 - 36) * 2 ^ 36) % 2 ^ 52)
    (n4 := n.toNat / 2 ^ 192 % 2 ^ 64 / 2 ^ 16 % 2 ^ 48) (by omega) (by omega) (by omega) (by omega) (by omega)
  refine ⟨hnorm, ?_⟩
  rw [hv]
  omega

/-- `sc_pack` of a canonical scalar keeps the integer (R216). -/
theorem scPack_toNat {x : Unpacked} (h : x.Canonical) : (scPack x).toNat = x.value := by
  have := h.2
  rw [scPack, BitVec.toNat_ofNat]
  simp only [ell] at this
  omega

theorem scPack_lt {x : Unpacked} (h : x.Canonical) : (scPack x).toNat < ell := by
  rw [scPack_toNat h]
  exact h.2

/-! ### The composite operations (R221) -/

theorem scReduce_lt (a : Scalar) : (scReduce a).toNat < ell :=
  scPack_lt (scMM_canonical_of_norm (scUnpack_spec a).1 scR_lt)

theorem scUnpack_mul_lt (a b : Scalar) : (scUnpack a).value * (scUnpack b).value < 2 ^ 260 * ell := by
  rw [(scUnpack_spec a).2, (scUnpack_spec b).2]
  calc a.toNat * b.toNat < 2 ^ 256 * 2 ^ 256 := Nat.mul_lt_mul'' a.isLt b.isLt
    _ = 2 ^ 260 * 2 ^ 252 := by rw [← pow_add, ← pow_add]
    _ < 2 ^ 260 * ell := Nat.mul_lt_mul_of_pos_left (by decide) (by positivity)

theorem scMmul_lt (a b : Scalar) : (scMmul a b).toNat < ell := scPack_lt (scMM_canonical (scUnpack_mul_lt a b))

theorem scMul_lt (a b : Scalar) : (scMul a b).toNat < ell :=
  scPack_lt (scMM_canonical_of_norm (scMM_canonical (scUnpack_mul_lt a b)).1 scRR_lt)

theorem scToMont_lt (a : Scalar) : (scToMont a).toNat < ell :=
  scPack_lt (scMM_canonical_of_norm (scUnpack_spec a).1 scRR_lt)

theorem scFromMont_lt (a : Scalar) : (scFromMont a).toNat < ell := by
  refine scPack_lt (scMontgomeryReduce_canonical ?_)
  have h := (scUnpack_spec a).2
  have := a.isLt
  simp only [Unpacked.value] at h
  simp only [Columns.value, ell]
  omega

theorem scAdd_lt (a b : Scalar) : (scAdd a b).toNat < ell := by
  obtain ⟨na, va⟩ := scUnpack_spec a
  obtain ⟨nb, vb⟩ := scUnpack_spec b
  have := a.isLt
  have := b.isLt
  exact scPack_lt (scMM_canonical_of_norm (scAdd52_spec na nb (by omega)).1 scR_lt)

/-- A difference of canonical scalars is canonical. -/
theorem scSub52_canonical {a b : Unpacked} (ha : a.Canonical) (hb : b.Canonical) : (scSub52 a b).Canonical := by
  obtain ⟨na, va⟩ := ha
  obtain ⟨nb, vb⟩ := hb
  obtain ⟨hn, hv⟩ := scSub52_spec na nb (by omega)
  refine ⟨hn, ?_⟩
  rw [hv]
  split <;> omega

theorem scUnpack_scReduce_canonical (a : Scalar) : (scUnpack (scReduce a)).Canonical := by
  obtain ⟨hn, hv⟩ := scUnpack_spec (scReduce a)
  exact ⟨hn, hv ▸ scReduce_lt a⟩

theorem scSub_lt (a b : Scalar) : (scSub a b).toNat < ell :=
  scPack_lt (scSub52_canonical (scUnpack_scReduce_canonical a) (scUnpack_scReduce_canonical b))

theorem scNeg_lt (a : Scalar) : (scNeg a).toNat < ell :=
  scPack_lt (scSub52_canonical ⟨by unfold Unpacked.Norm; decide, by decide⟩ (scUnpack_scReduce_canonical a))

theorem wideLo_norm (n : Nat) : (wideLo n).Norm := by
  simp only [wideLo, and_M52]
  exact (Unpacked.ofLimbs_norm (by omega) (by omega) (by omega) (by omega) (by omega)).1

theorem wideHi_norm (n : Nat) : (wideHi n).Norm := by
  have hw : word64 n 7 < 2 ^ 64 := Nat.mod_lt _ (by decide)
  simp only [wideHi, and_M52]
  exact (Unpacked.ofLimbs_norm (by omega) (by omega) (by omega) (by omega)
    (by rw [Nat.shiftRight_eq_div_pow]; omega)).1

theorem scFromWide_lt (n : Nat) : (scFromWide n).toNat < ell := by
  obtain ⟨nh, vh⟩ := scMM_canonical_of_norm (wideHi_norm n) scRR_lt
  obtain ⟨nl, vl⟩ := scMM_canonical_of_norm (wideLo_norm n) scR_lt
  have hell : ell < 2 ^ 253 := by decide
  obtain ⟨hn, hv⟩ := scAdd52_spec nh nl (by omega)
  refine scPack_lt ⟨hn, ?_⟩
  rw [hv]
  split <;> omega

end Sys2Proof.Machine

/-! SUPPORT. The bounds of what commands write: limbs below 2^53 (41_field.md R166), legal digit buffers (10_state.md
R40). -/
namespace Sys2Proof.Machine

/-! ### Limbs -/

theorem Fe.Below.to53 {x : Fe} (h : x.Below 52) : x.Below 53 := h.mono (by decide)

theorem feAdd_below53 (a b : Fe) : (feAdd a b).Below 53 := (feAdd_below a b).to53
theorem feSub_below53 (a b : Fe) : (feSub a b).Below 53 := (feSub_below a b).to53
theorem feNeg_below53 (a : Fe) : (feNeg a).Below 53 := (feNeg_below a).to53
theorem feMul_below53 (a b : Fe) : (feMul a b).Below 53 := (feMul_below a b).to53
theorem feSq_below53 (a : Fe) : (feSq a).Below 53 := (feSq_below a).to53

theorem fePow2k_below53 {a : Fe} (h : a.Below 53) (k : Nat) : (fePow2k a k).Below 53 := by
  induction k generalizing a with
  | zero => exact h
  | succ k ih =>
    rw [fePow2k, strictFe_eq]
    exact ih (feSq_below53 a)

theorem fePow22501_below53 (x : Fe) : (fePow22501 x).1.Below 53 ∧ (fePow22501 x).2.Below 53 := by
  simp only [fePow22501, strictFe_eq]
  exact ⟨feMul_below53 .., feMul_below53 ..⟩

theorem feInvert_below53 (x : Fe) : (feInvert x).Below 53 := feMul_below53 ..

theorem fePowP58_below53 (x : Fe) : (fePowP58 x).Below 53 := feMul_below53 ..

theorem feSelect_below {n : Nat} {a b : Fe} (ha : a.Below n) (hb : b.Below n) (c : Bool) : (feSelect a b c).Below n := by
  rw [feSelect_eq]
  split
  · exact hb
  · exact ha

theorem feCneg_below53 {x : Fe} (h : x.Below 53) (c : Bool) : (feCneg x c).Below 53 :=
  feSelect_below h (feNeg_below53 x) c

theorem feSqrtRatio_below53 (u v : Fe) : (feSqrtRatio u v).2.Below 53 := by
  simp only [feSqrtRatio, strictFe_eq]
  exact feSelect_below (feSelect_below (feMul_below53 ..) (feMul_below53 ..) _) (feNeg_below53 _) _

/-- Limbs masked to 51 bits. -/
theorem ofLimbs_masked_below (n0 n1 n2 n3 n4 : Nat) :
    (Fe.ofLimbs (n0 &&& M51) (n1 &&& M51) (n2 &&& M51) (n3 &&& M51) (n4 &&& M51)).Below 51 := by
  have h (n : Nat) : n &&& M51 < 2 ^ 51 := by
    rw [and_M51]
    exact Nat.mod_lt _ (by decide)
  exact Fe.below_ofLimbs _ _ _ _ _ _ (h _) (h _) (h _) (h _) (h _)

theorem feFromBytes_below (bs : List Byte) : (feFromBytes bs).Below 51 := ofLimbs_masked_below ..

theorem Fe.ofValue_below (v : Nat) : (Fe.ofValue v).Below 51 := ofLimbs_masked_below ..

theorem feOne_below53 : feOne.Below 53 := by decide

theorem feConstOf_below53 (k : Nat) : (feConstOf k).Below 53 := by
  unfold feConstOf
  split <;> decide

theorem elligator2_below53 (r : Fe) : (elligator2 r).Below 53 := by
  simp only [elligator2, strictFe_eq]
  exact feCneg_below53 (feAdd_below53 ..) _

/-! ### Points -/

theorem c2e_below53 (e : Compl) : (c2e e).Below 53 :=
  ⟨feMul_below53 .., feMul_below53 .., feMul_below53 .., feMul_below53 ..⟩

theorem c2p_below53 (e : Compl) : (c2p e).Below 53 := ⟨feMul_below53 .., feMul_below53 .., feMul_below53 ..⟩

theorem p2e_below53 (e : Proj) : (p2e e).Below 53 :=
  ⟨feMul_below53 .., feMul_below53 .., feSq_below53 _, feMul_below53 ..⟩

theorem e2pn_below53 {e : Ext} (h : e.Below 53) : (e2pn e).Below 53 :=
  ⟨feAdd_below53 .., feSub_below53 .., h.2.2.1, feMul_below53 ..⟩

theorem e2an_below53 (e : Ext) : (e2an e).Below 53 := ⟨feAdd_below53 .., feSub_below53 .., feMul_below53 ..⟩

theorem dbl_below53 (e : Proj) : (dbl e).Below 53 :=
  ⟨feSub_below53 .., feAdd_below53 .., feSub_below53 .., feSub_below53 ..⟩

theorem addTail_below53 (a b c d : Fe) : (addTail a b c d).Below 53 :=
  ⟨feSub_below53 .., feAdd_below53 .., feAdd_below53 .., feSub_below53 ..⟩

theorem subTail_below53 (a b c d : Fe) : (subTail a b c d).Below 53 :=
  ⟨feSub_below53 .., feAdd_below53 .., feSub_below53 .., feAdd_below53 ..⟩

theorem decompress_below53 {reject : Bool} {bs : List Byte} {e : Ext} (h : decompress reject bs = some e) :
    e.Below 53 := by
  simp only [decompress, strictFe_eq] at h
  split at h
  · cases h
  · split at h
    · cases h
    · cases h
      exact ⟨feCneg_below53 (feSqrtRatio_below53 ..) _, (feFromBytes_below bs).mono (by decide), feOne_below53,
        feMul_below53 ..⟩

theorem montToEdwards_below53 {reject sign : Bool} {u : Fe} {e : Ext} (h : montToEdwards reject u sign = some e) :
    e.Below 53 := by
  simp only [montToEdwards, strictFe_eq] at h
  split at h
  · cases h
  · exact decompress_below53 h

theorem smul_below53 (q : Ext) (n : Nat) : (smul q n).Below 53 := by
  simp only [smul, strictCompl_eq]
  exact c2e_below53 _

theorem dsmb_below53 (a : Nat) (q : Ext) (b : Nat) : (dsmb a q b).Below 53 := p2e_below53 _

theorem msmSum_below53 (prs : List MsmPair) : (msmSum prs).Below 53 := p2e_below53 _

theorem negate_below53 {q : Point} (h : q.Below 53) : Answers (Point.Below 53) q.negate := by
  cases q with
  | ext e =>
    obtain ⟨-, hY, hZ, -⟩ := h
    exact (answers_ok_iff _).2 ⟨feNeg_below53 _, hY, hZ, feNeg_below53 _⟩
  | proj e => exact answers_error _
  | compl e => exact answers_error _
  | pniels n =>
    obtain ⟨hp, hm, hZ, -⟩ := h
    exact (answers_ok_iff _).2 ⟨hm, hp, hZ, feNeg_below53 _⟩
  | aniels n =>
    obtain ⟨hp, hm, -⟩ := h
    exact (answers_ok_iff _).2 ⟨hm, hp, feNeg_below53 _⟩

theorem select_below {n : Nat} {q r : Point} (hq : q.Below n) (hr : r.Below n) (c : Bool) :
    Answers (Point.Below n) (q.select r c) := by
  have pick {α : Type} (B : α → Prop) {a b : α} (ha : B a) (hb : B b) : B (if c then b else a) := by
    split
    · exact hb
    · exact ha
  unfold Point.select
  split
  · rw [selExt_eq]; exact (answers_ok_iff _).2 (pick (Ext.Below n) hq hr)
  · rw [selPN_eq]; exact (answers_ok_iff _).2 (pick (PNiels.Below n) hq hr)
  · rw [selAN_eq]; exact (answers_ok_iff _).2 (pick (ANiels.Below n) hq hr)
  · exact answers_error _

theorem condNegate_below53 {q : Point} (h : q.Below 53) (c : Bool) : Answers (Point.Below 53) (q.condNegate c) := by
  have hn := negate_below53 h
  unfold Point.condNegate
  split
  · next n hq => exact select_below h (hn n hq) c
  · exact answers_error _

theorem addTo_below53 (q : Point) (e : Ext) : Answers (Compl.Below 53) (q.addTo e) := by
  cases q <;> simp only [Point.addTo, answers_ok_iff, answers_error] <;> exact addTail_below53 ..

theorem subFrom_below53 (q : Point) (e : Ext) : Answers (Compl.Below 53) (q.subFrom e) := by
  cases q <;> simp only [Point.subFrom, answers_ok_iff, answers_error] <;> exact subTail_below53 ..

theorem extIdentity_below53 : extIdentity.Below 53 := by decide
theorem extBase_below53 : extBase.Below 53 := by decide

/-! ### Digits -/

theorem recentre16_length (es : List Nat) (carry : Nat) : (recentre16 es carry).length = es.length := by
  induction es generalizing carry with
  | nil => rfl
  | cons e es ih =>
    cases es with
    | nil => rfl
    | cons e' es => rw [recentre16, List.length_cons, ih]; rfl

@[simp] theorem scRadix16_length (n : Nat) : (scRadix16 n).length = 64 := by
  rw [scRadix16, recentre16_length, List.length_map, List.length_range]

theorem radix2wLoop_length (n w left i carry : Nat) :
    (radix2wLoop n w left i carry).length = left + if w = 8 then 1 else 0 := by
  induction left generalizing i carry with
  | zero => rw [radix2wLoop]; split <;> rfl
  | succ left ih =>
    rw [radix2wLoop]
    split
    · next h => simp [h.1, h.2]
    · rw [List.length_cons, ih]; omega

theorem nafLoop_length (n w left pos skip carry : Nat) : (nafLoop n w left pos skip carry).length = left := by
  induction left generalizing pos skip carry with
  | zero => rfl
  | succ left ih =>
    cases skip with
    | succ skip => rw [nafLoop, List.length_cons, ih]
    | zero =>
      simp only [nafLoop]
      split
      · rw [List.length_cons, ih]
      · split <;> rw [List.length_cons, ih]

@[simp] theorem scNaf_length (n w : Nat) : (scNaf n w).length = 256 := nafLoop_length ..

/-- The digit counts of 42_scalar.md R223. -/
theorem scRadix2w_length_mem (n w : Nat) (h4 : 4 ≤ w) (h8 : w ≤ 8) :
    (scRadix2w n w).length ∈ [33, 37, 43, 52, 64, 256] := by
  rw [scRadix2w]
  split
  · simp
  · rw [radix2wLoop_length]
    obtain rfl | rfl | rfl | rfl : w = 5 ∨ w = 6 ∨ w = 7 ∨ w = 8 := by omega
    all_goals decide

/-- A digit buffer made from as many digits as 10_state.md R40 allows is legal. -/
theorem Digits.ofList_legal {ds : List Int} (h : ds.length ∈ [33, 37, 43, 52, 64, 256]) : (Digits.ofList ds).Legal := by
  have hle : ds.length ≤ 256 := by
    simp only [List.mem_cons, List.not_mem_nil, or_false] at h
    omega
  refine ⟨h, ?_, ?_⟩
  · simp only [Digits.ofList, List.length_map, List.length_append, List.length_replicate]
    omega
  · simp only [Digits.ofList, List.map_append]
    rw [List.drop_left' (by simp), List.map_replicate]
    intro b hb
    rw [List.eq_of_mem_replicate hb]
    rfl

end Sys2Proof.Machine

/-! SUPPORT. The invariant of the state under every write of a command and every bus event. -/
namespace Sys2Proof.Machine

/-! ### What the checks of decoding give (30_encoding.md R101, R102) -/

theorem check_eq_none_iff (prm : Params) (i : Instr) : i.check prm = none ↔
    (∀ o ∈ i.operands, o.fieldLegal prm = true) ∧ ∀ o ∈ i.operands, o.slotLegal prm = true := by
  unfold Instr.check
  simp only [← List.all_eq_true]
  split
  · next h => split <;> simp [*]
  · next h => simp [h]

/-- A slot operand of a command that passes its checks lies in ORAM (20_memory.md R71). -/
theorem slots_le_of_check {prm : Params} {i : Instr} {v : Imm} {n : Nat} (hc : i.check prm = none)
    (h : .slots v n ∈ i.operands) : slotAddr v + 32 * n ≤ 32 * prm.nslot := by
  have := of_decide_eq_true (((check_eq_none_iff prm i).1 hc).2 _ h)
  unfold slotAddr
  omega

/-- An immediate of a command that passes its checks is in its range (30_encoding.md R102). -/
theorem range_of_check {prm : Params} {i : Instr} {v : Imm} {lo hi : Nat} (hc : i.check prm = none)
    (h : .range v lo hi ∈ i.operands) : lo ≤ v.toNat ∧ v.toNat ≤ hi :=
  of_decide_eq_true (((check_eq_none_iff prm i).1 hc).1 _ h)

/-! ### Contents of registers -/

theorem mem_of_getD_eq_some {α : Type} {l : List (Option α)} {n : Nat} {x : α} (h : l.getD n none = some x) :
    some x ∈ l := by
  rw [List.getD_eq_getElem?_getD] at h
  cases hl : l[n]? with
  | none => rw [hl] at h; cases h
  | some o =>
    rw [hl] at h
    obtain rfl : o = some x := h
    exact List.mem_of_getElem? hl

theorem State.LimbsBelow.readF {n : Nat} {s : State} (h : s.LimbsBelow n) {r : RegNo} {x : Fe}
    (hx : s.readF r = some x) : x.Below n := h.1 x (mem_of_getD_eq_some hx)

theorem State.LimbsBelow.readP {n : Nat} {s : State} (h : s.LimbsBelow n) {r : RegNo} {q : Point}
    (hq : s.readP r = some q) : q.Below n := h.2.1 q (mem_of_getD_eq_some hq)

theorem State.Inv.readS {s : State} (h : s.Inv) {r : RegNo} {x : Scalar} (hx : s.readS r = some x) :
    x.toNat < 2 ^ 255 := h.scalars.1 x (mem_of_getD_eq_some hx)

theorem State.Inv.readDG {s : State} (h : s.Inv) {r : RegNo} {g : Digits} (hg : s.readDG r = some g) : g.Legal :=
  h.digits g (mem_of_getD_eq_some hg)

/-! ### Writes that keep the invariant -/

/-- What a write must be to keep the invariant of a state with these parameters. -/
def Write.Legal (prm : Params) : Write → Prop
  | .f _ v => v.Below 53
  | .s _ v => v.toNat < 2 ^ 255
  | .p _ q => ∀ r, q = some r → r.Below 53
  | .c _ _ => True
  | .dg _ g => g.Legal
  | .slots imm v => slotAddr imm + v.length ≤ 32 * prm.nslot
  | .msm l => l.length ≤ prm.msmCap ∧ ∀ m ∈ l, m.point.Below 53 ∧ m.scalar.toNat < 2 ^ 255

theorem forall_some_mem_set {α : Type} {P : α → Prop} {l : List (Option α)} {n : Nat} {o : Option α}
    (hl : ∀ x, some x ∈ l → P x) (ho : ∀ x, o = some x → P x) : ∀ x, some x ∈ l.set n o → P x := by
  intro x hx
  rcases List.mem_or_eq_of_mem_set hx with h | h
  · exact hl x h
  · exact ho x h.symm

theorem forall_some_mem_set_some {α : Type} {P : α → Prop} {l : List (Option α)} {n : Nat} {v : α}
    (hl : ∀ x, some x ∈ l → P x) (hv : P v) : ∀ x, some x ∈ l.set n (some v) → P x :=
  forall_some_mem_set hl fun _ h => Option.some.inj h ▸ hv

/-- A write within the bytes of ORAM keeps the memory in them. -/
theorem addresses_memWrite {m : Memory} {a bound : Nat} {bs : List Byte} (hm : ∀ c ∈ m, c.1 < bound)
    (h : a + bs.length ≤ bound) : ∀ c ∈ memWrite m a bs, c.1 < bound := by
  intro c hc
  rcases mem_memWrite m a bs c hc with h' | ⟨-, h'⟩
  · exact hm c h'
  · omega

/-- A legal write keeps the invariant, outside reset. -/
theorem State.Inv.apply {s : State} (h : s.Inv) (hr : s.resetIn = false) {w : Write} (hw : w.Legal s.params) :
    (s.apply w).Inv := by
  have held : (s.apply w).resetIn = true → s.apply w = { (s.apply w).resetBlock with resetIn := true } := by
    rw [show (s.apply w).resetIn = false by cases w <;> exact hr]
    exact fun e => by cases e
  obtain ⟨hF, hS, hP, hC, hDG⟩ := h.files
  obtain ⟨lF, lP, lM⟩ := h.limbs
  cases w with
  | f n v => exact { h with
      files := ⟨(List.length_set ..).trans hF, hS, hP, hC, hDG⟩
      limbs := ⟨forall_some_mem_set_some lF hw, lP, lM⟩
      held := held }
  | s n v => exact { h with
      files := ⟨hF, (List.length_set ..).trans hS, hP, hC, hDG⟩
      scalars := ⟨forall_some_mem_set_some h.scalars.1 hw, h.scalars.2⟩
      held := held }
  | p n q => exact { h with
      files := ⟨hF, hS, (List.length_set ..).trans hP, hC, hDG⟩
      limbs := ⟨lF, forall_some_mem_set lP hw, lM⟩
      held := held }
  | c n v => exact { h with
      files := ⟨hF, hS, hP, (List.length_set ..).trans hC, hDG⟩
      held := held }
  | dg n g => exact { h with
      files := ⟨hF, hS, hP, hC, (List.length_set ..).trans hDG⟩
      digits := forall_some_mem_set_some h.digits hw
      held := held }
  | slots imm v => exact { h with
      memory := Memory.wf_memWrite _ _ _ h.memory
      addresses := addresses_memWrite h.addresses hw
      held := held }
  | msm l => exact { h with
      limbs := ⟨lF, lP, fun m hm => (hw.2 m hm).1⟩
      scalars := ⟨h.scalars.1, fun m hm => (hw.2 m hm).2⟩
      pairs := hw.1
      held := held }

theorem State.Inv.applyAll {s : State} (h : s.Inv) (hr : s.resetIn = false) {ws : List Write}
    (hw : ∀ w ∈ ws, w.Legal s.params) : (s.applyAll ws).Inv := by
  induction ws generalizing s with
  | nil => exact h
  | cons w ws ih =>
    obtain ⟨h0, hws⟩ := List.forall_mem_cons.1 hw
    have hp : (s.apply w).params = s.params := by cases w <;> rfl
    exact ih (h.apply hr h0) (by cases w <;> exact hr) (hp ▸ hws)

/-- One write. -/
theorem legal_one {prm : Params} {w : Write} (h : w.Legal prm) : ∀ w' ∈ [w], w'.Legal prm :=
  List.forall_mem_singleton.2 h

/-- Two writes. -/
theorem legal_two {prm : Params} {w w' : Write} (h : w.Legal prm) (h' : w'.Legal prm) :
    ∀ v ∈ [w, w'], v.Legal prm := List.forall_mem_cons.2 ⟨h, legal_one h'⟩

theorem legal_point {prm : Params} {d : RegNo} {q : Point} (h : q.Below 53) :
    ∀ w ∈ [Write.p d (some q)], w.Legal prm := legal_one fun _ e => Option.some.inj e ▸ h

theorem legal_scalar {prm : Params} {d : RegNo} {x : Scalar} (h : x.toNat < ell) :
    ∀ w ∈ [Write.s d x], w.Legal prm := legal_one (h.trans (by decide))

theorem legal_slots {prm : Params} {i : Instr} {imm : Imm} {n : Nat} {v : List Byte} (hc : i.check prm = none)
    (h : .slots imm n ∈ i.operands) (hv : v.length = 32 * n) : ∀ w ∈ [Write.slots imm v], w.Legal prm :=
  legal_one (show _ + _ ≤ _ by rw [hv]; exact slots_le_of_check hc h)

section
variable {s : State} (h : s.Inv)
include h

theorem legal_withF {a : RegNo} {k : Fe → List Write} (hk : ∀ x, x.Below 53 → ∀ w ∈ k x, w.Legal s.params) :
    Answers (fun ws => ∀ w ∈ ws, w.Legal s.params) (withF s a k) :=
  (answers_withF_iff ..).2 fun x hx => hk x (h.limbs.readF hx)

theorem legal_withFF {a b : RegNo} {k : Fe → Fe → List Write}
    (hk : ∀ x y, x.Below 53 → y.Below 53 → ∀ w ∈ k x y, w.Legal s.params) :
    Answers (fun ws => ∀ w ∈ ws, w.Legal s.params) (withFF s a b k) :=
  (answers_withFF_iff ..).2 fun x hx y hy => hk x y (h.limbs.readF hx) (h.limbs.readF hy)

theorem legal_withS {a : RegNo} {k : Scalar → List Write}
    (hk : ∀ x : Scalar, x.toNat < 2 ^ 255 → ∀ w ∈ k x, w.Legal s.params) :
    Answers (fun ws => ∀ w ∈ ws, w.Legal s.params) (withS s a k) :=
  (answers_withS_iff ..).2 fun x hx => hk x (h.readS hx)

theorem legal_withExt {a : RegNo} {k : Ext → List Write} (hk : ∀ e, e.Below 53 → ∀ w ∈ k e, w.Legal s.params) :
    Answers (fun ws => ∀ w ∈ ws, w.Legal s.params) (withExt s a k) :=
  (answers_withExt_iff ..).2 fun e he => hk e (h.limbs.readP he)

/-- Every write of a command that passes its checks is legal, from a state with the invariant. -/
theorem writes_legal {i : Instr} (hc : i.check s.params = none) :
    Answers (fun ws => ∀ w ∈ ws, w.Legal s.params) (writes i s) := by
  have noList : ∀ m ∈ ([] : List MsmPair), m.point.Below 53 ∧ m.scalar.toNat < 2 ^ 255 := by simp
  cases i with
  | nop => exact (answers_ok_iff _).2 (by simp)
  | chSet | chNot | chAnd | chOr | chXor => simp [writes, Write.Legal]
  | feEq | feIsneg | feIszero | scIscanon | ptEq | ptIssmall | ptIsident => simp [writes, Write.Legal]
  | feLd => exact (answers_ok_iff _).2 (legal_one ((feFromBytes_below _).mono (by decide)))
  | feSt => exact legal_withF h fun x _ => legal_slots (n := 1) hc (by simp [Instr.operands]) (feToBytes_length x)
  | feConst => exact (answers_ok_iff _).2 (legal_one (feConstOf_below53 _))
  | feMov => exact legal_withF h fun x hx => legal_one hx
  | feAdd => exact legal_withFF h fun x y _ _ => legal_one (feAdd_below53 x y)
  | feSub => exact legal_withFF h fun x y _ _ => legal_one (feSub_below53 x y)
  | feNeg => exact legal_withF h fun x _ => legal_one (feNeg_below53 x)
  | feMul => exact legal_withFF h fun x y _ _ => legal_one (feMul_below53 x y)
  | feSq => exact legal_withF h fun x _ => legal_one (feSq_below53 x)
  | feSq2 => exact legal_withF h fun x _ => legal_one (feSq2_below x)
  | fePow2k d a imm => exact legal_withF h fun x hx => legal_one (fePow2k_below53 hx _)
  | feInv => exact legal_withF h fun x _ => legal_one (feInvert_below53 x)
  | fePowp58 => exact legal_withF h fun x _ => legal_one (fePowP58_below53 x)
  | fePow22501 => exact legal_withF h fun x _ => legal_two (fePow22501_below53 x).1 (fePow22501_below53 x).2
  | feSqrtri => exact legal_withFF h fun u v _ _ => legal_two (feSqrtRatio_below53 u v) trivial
  | feRed => exact legal_withF h fun x _ => legal_one ((feFromBytes_below _).mono (by decide))
  | feCsel =>
    simp only [writes, State.srcF, State.srcC, answers_bind_iff, answers_source_iff, answers_pure_iff]
    exact fun x hx y hy k _ => legal_one (feSelect_below (h.limbs.readF hx) (h.limbs.readF hy) k)
  | feCneg =>
    simp only [writes, State.srcF, State.srcC, answers_bind_iff, answers_source_iff, answers_pure_iff]
    exact fun k _ x hx => legal_one (feCneg_below53 (h.limbs.readF hx) k)
  | feCassign =>
    simp only [writes, State.srcF, State.srcC, answers_bind_iff, answers_source_iff, answers_pure_iff]
    exact fun y hy k _ x hx => legal_one (feSelect_below (h.limbs.readF hx) (h.limbs.readF hy) k)
  | scLd =>
    refine (answers_ok_iff _).2 (legal_one ?_)
    show BitVec.toNat (BitVec.ofNat 256 _) < _
    rw [BitVec.toNat_ofNat]
    omega
  | scLdw => exact (answers_ok_iff _).2 (legal_scalar (scFromWide_lt _))
  | scSt => exact legal_withS h fun x _ => legal_slots (n := 1) hc (by simp [Instr.operands]) (leBytes_length ..)
  | scMov => exact legal_withS h fun x hx => legal_one hx
  | scAdd => exact (answers_withSS_iff ..).2 fun x _ y _ => legal_scalar (scAdd_lt x y)
  | scSub => exact (answers_withSS_iff ..).2 fun x _ y _ => legal_scalar (scSub_lt x y)
  | scMul => exact (answers_withSS_iff ..).2 fun x _ y _ => legal_scalar (scMul_lt x y)
  | scMmul => exact (answers_withSS_iff ..).2 fun x _ y _ => legal_scalar (scMmul_lt x y)
  | scNeg => exact legal_withS h fun x _ => legal_scalar (scNeg_lt x)
  | scRed => exact legal_withS h fun x _ => legal_scalar (scReduce_lt x)
  | scTomont => exact legal_withS h fun x _ => legal_scalar (scToMont_lt x)
  | scFrommont => exact legal_withS h fun x _ => legal_scalar (scFromMont_lt x)
  | scRadix16 => exact legal_withS h fun x _ => legal_one (Digits.ofList_legal (by simp))
  | scRadix2w d a imm =>
    obtain ⟨h4, h8⟩ := range_of_check (v := imm) (lo := 4) (hi := 8) hc (by simp [Instr.operands])
    exact legal_withS h fun x _ => legal_one (Digits.ofList_legal (scRadix2w_length_mem _ _ h4 h8))
  | scNaf => exact legal_withS h fun x _ => legal_one (Digits.ofList_legal (by simp))
  | dgSt =>
    simp only [writes, State.srcDG, answers_bind_iff, answers_source_iff, answers_pure_iff]
    exact fun g hg => legal_slots (n := 8) hc (by simp [Instr.operands]) (h.readDG hg).2.1
  | ptIdent => exact (answers_ok_iff _).2 (legal_point extIdentity_below53)
  | ptBase => exact (answers_ok_iff _).2 (legal_point extBase_below53)
  | ptMov =>
    simp only [writes, State.srcP, answers_bind_iff, answers_source_iff, answers_pure_iff]
    exact fun q hq => legal_point (h.limbs.readP hq)
  | ptDecomp =>
    refine (answers_ok_iff _).2 (legal_two trivial fun q hq => ?_)
    obtain ⟨e, he, rfl⟩ := Option.map_eq_some_iff.1 hq
    exact decompress_below53 he
  | ptComp => exact legal_withExt h fun e _ => legal_slots (n := 1) hc (by simp [Instr.operands]) (compress_length e)
  | ptE2p => exact legal_withExt h fun e he => legal_point ⟨he.1, he.2.1, he.2.2.1⟩
  | ptE2pn => exact legal_withExt h fun e he => legal_point (e2pn_below53 he)
  | ptE2an => exact legal_withExt h fun e _ => legal_point (e2an_below53 e)
  | ptP2e => exact (answers_withProj_iff ..).2 fun e _ => legal_point (p2e_below53 e)
  | ptC2p => exact (answers_withCompl_iff ..).2 fun e _ => legal_point (c2p_below53 e)
  | ptC2e => exact (answers_withCompl_iff ..).2 fun e _ => legal_point (c2e_below53 e)
  | ptDbl => exact (answers_withProj_iff ..).2 fun e _ => legal_point (dbl_below53 e)
  | ptAdd =>
    simp only [writes, State.srcP, answers_bind_iff, answers_source_iff, answers_asExt_iff, answers_pure_iff]
    exact fun q _ r _ e _ t ht => legal_point (addTo_below53 r e t ht)
  | ptSub =>
    simp only [writes, State.srcP, answers_bind_iff, answers_source_iff, answers_asExt_iff, answers_pure_iff]
    exact fun q _ r _ e _ t ht => legal_point (subFrom_below53 r e t ht)
  | ptNeg =>
    simp only [writes, State.srcP, answers_bind_iff, answers_source_iff, answers_pure_iff]
    exact fun q hq t ht => legal_point (negate_below53 (h.limbs.readP hq) t ht)
  | ptCsel =>
    simp only [writes, State.srcP, State.srcC, answers_bind_iff, answers_source_iff, answers_pure_iff]
    exact fun q hq r hr k _ t ht => legal_point (select_below (h.limbs.readP hq) (h.limbs.readP hr) k t ht)
  | ptCneg =>
    simp only [writes, State.srcP, State.srcC, answers_bind_iff, answers_source_iff, answers_pure_iff]
    exact fun k _ q hq t ht => legal_point (condNegate_below53 (h.limbs.readP hq) k t ht)
  | ptCassign =>
    simp only [writes, State.srcP, State.srcC, answers_bind_iff, answers_source_iff, answers_pure_iff]
    exact fun r hr k _ q hq t ht => legal_point (select_below (h.limbs.readP hq) (h.limbs.readP hr) k t ht)
  | ptMulcof => exact legal_withExt h fun e _ => legal_point (c2e_below53 _)
  | ptEadd => exact (answers_withExtExt_iff ..).2 fun _ _ _ _ => legal_point (c2e_below53 _)
  | ptEsub => exact (answers_withExtExt_iff ..).2 fun _ _ _ _ => legal_point (c2e_below53 _)
  | ptEdbl => exact legal_withExt h fun e _ => legal_point (c2e_below53 _)
  | ptSmul =>
    simp only [writes, State.srcP, State.srcS, answers_bind_iff, answers_source_iff, answers_asExt_iff, answers_pure_iff]
    exact fun q _ n _ e _ => legal_point (smul_below53 e _)
  | ptDsmb =>
    simp only [writes, State.srcP, State.srcS, answers_bind_iff, answers_source_iff, answers_asExt_iff, answers_pure_iff]
    exact fun m _ q _ n _ e _ => legal_point (dsmb_below53 _ e _)
  | msmClr => exact (answers_ok_iff _).2 (legal_one ⟨Nat.zero_le _, noList⟩)
  | msmPush =>
    simp only [writes, State.srcP, State.srcS, answers_bind_iff, answers_source_iff, answers_asExt_iff,
      answers_ite_iff, answers_error, answers_pure_iff, implies_true, true_and]
    intro n hn q hq e he hcap
    subst he
    refine legal_one ⟨?_, fun m hm => ?_⟩
    · rw [List.length_append, List.length_singleton]
      omega
    · rcases List.mem_append.1 hm with hm | hm
      · exact ⟨h.limbs.2.2 m hm, h.scalars.2 m hm⟩
      · obtain rfl := List.mem_singleton.1 hm
        exact ⟨h.limbs.readP hq, h.readS hn⟩
  | msmRun =>
    simp only [writes, answers_ite_iff, answers_error, answers_ok_iff, implies_true, true_and]
    exact fun _ => legal_two (fun _ e => Option.some.inj e ▸ msmSum_below53 _) ⟨Nat.zero_le _, noList⟩
  | ell2 => exact legal_withF h fun r _ => legal_one (elligator2_below53 r)
  | mtoe =>
    simp only [writes, State.srcF, answers_bind_iff, answers_source_iff, answers_pure_iff]
    intro u _ e he
    unfold mtoePoint at he
    split at he
    · next e' he' => cases he; exact legal_point (montToEdwards_below53 he')
    · cases he

end

end Sys2Proof.Machine

namespace Sys2Proof.Machine

/-! ### The invariant after every step -/

theorem not_some_mem_replicate {α : Type} {n : Nat} {x : α} (h : some x ∈ List.replicate n none) : False := by
  cases List.eq_of_mem_replicate h

/-- The reset state under legal parameters has the invariant, whatever the host's side of the bus holds (R58). -/
theorem resetOf_inv {prm : Params} (h : prm.Legal) (r : Bool) (es : List BusEvent) (l : List Word) :
    ({ State.resetOf prm with resetIn := r, bus := es, readLog := l } : State).Inv where
  params := h
  files := ⟨List.length_replicate, List.length_replicate, List.length_replicate, List.length_replicate,
    List.length_replicate⟩
  limbs := ⟨fun _ h => (not_some_mem_replicate h).elim, fun _ h => (not_some_mem_replicate h).elim,
    fun _ h => by cases h⟩
  scalars := ⟨fun _ h => (not_some_mem_replicate h).elim, fun _ h => by cases h⟩
  digits := fun _ h => (not_some_mem_replicate h).elim
  pairs := Nat.zero_le _
  memory := rfl
  addresses := fun _ h => by cases h
  record := ⟨rfl, rfl, rfl⟩
  held := by
    rintro (rfl : r = true)
    rfl

/-- The host's side of the bus is no part of the invariant. -/
theorem State.Inv.host {s : State} (h : s.Inv) (es : List BusEvent) (l : List Word) :
    ({ s with bus := es, readLog := l } : State).Inv :=
  { h with held := fun hr => congrArg (fun u : State => { u with bus := es, readLog := l }) (h.held hr) }

theorem State.Inv.retire {s : State} (h : s.Inv) (hf : s.fault = false) (hr : s.resetIn = false) : s.retire.Inv :=
  { h with
    record := by simpa [State.RecordLegal, hf] using h.record
    held := fun e => by rw [State.retire_resetIn, hr] at e; cases e }

/-- Every cause has a code of 60_exceptions.md R401. -/
theorem code_range (k : FaultCode) : 1 ≤ k.code.toNat ∧ k.code.toNat ≤ 8 := by
  cases k <;> decide

theorem State.Inv.takeFault {s : State} (h : s.Inv) (hr : s.resetIn = false) (k : FaultCode) (w : Word) :
    (s.takeFault k w).Inv :=
  { h with
    record := ⟨(code_range k).1, (code_range k).2, rfl⟩
    held := fun e => by rw [State.takeFault_resetIn, hr] at e; cases e }

/-- Every command keeps the invariant. -/
theorem exec_keepsInv {i : Instr} {s t : State} (h : s.Inv) (hf : s.fault = false) (hr : s.resetIn = false)
    (ht : exec i s = .next t) : t.Inv := by
  obtain ⟨k, rfl⟩ | ⟨ws, hc, hws, rfl⟩ := exec_cases ht
  · exact h.takeFault hr k _
  · exact (h.applyAll hr (writes_legal h hc ws hws)).retire (by simpa) (by simpa)

theorem acceptWord_keepsInv {w : Word} {s t : State} (h : s.Inv) (hr : s.resetIn = false)
    (ht : acceptWord w s = .next t) : t.Inv := by
  obtain ⟨-, ha⟩ | ⟨-, k, -, ha⟩ | ⟨hf, i, -, ha⟩ := acceptWord_cases w s
  · exact Host.Outcome.next.inj (ha.symm.trans ht) ▸ h
  · exact Host.Outcome.next.inj (ha.symm.trans ht) ▸ h.takeFault hr k w
  · exact exec_keepsInv h hf hr (ha.symm.trans ht)

/-- A write of the host at an aligned offset inside the window keeps the invariant. -/
theorem hostWrite_keepsInv {s : State} (h : s.Inv) (hr : s.resetIn = false) {o : Nat} (w : Word) (ho : o % 4 = 0) :
    (hostWrite s o w).Inv := by
  unfold hostWrite
  split
  · split
    · exact resetOf_inv h.params s.resetIn s.bus s.readLog
    · exact h
  · split
    · next hw =>
      exact { h with
        memory := Memory.wf_memWrite _ _ _ h.memory
        addresses := addresses_memWrite h.addresses (by
          obtain ⟨hlo, hhi⟩ := hw
          simp only [windowEnd, oramOffset, leBytes_length] at hlo hhi ⊢
          omega)
        held := fun e => by rw [show _ = false from hr] at e; cases e }
    · exact h

theorem driveReset_keepsInv {s : State} (h : s.Inv) (a : Bool) : (driveReset s a).Inv := by
  cases a with
  | true => exact resetOf_inv h.params true s.bus s.readLog
  | false => exact { h with held := fun e => by cases e }

theorem step_keepsInv {s t : State} (h : s.Inv) (ht : step s = .next t) : t.Inv := by
  obtain ⟨-, rfl⟩ | ⟨e, es, -, he⟩ := step_cases ht
  · exact h
  · have h' : ({ s with bus := es } : State).Inv := h.host es s.readLog
    obtain ⟨o, rfl, -, -, -, rfl⟩ | ⟨w, rfl, hr, ha⟩ | ⟨o, w, rfl, -, hr, ho, -, rfl⟩ | ⟨a, rfl, rfl⟩ :=
      busEvent_cases he
    · exact h.host es _
    · exact acceptWord_keepsInv h' hr ha
    · exact hostWrite_keepsInv h' hr w ho
    · exact driveReset_keepsInv h' a

/-- Settles O51. -/
theorem stepKeepsInv : Obligations.StepKeepsInv := by
  unfold Obligations.StepKeepsInv
  exact fun _ _ => step_keepsInv

/-- Settles O53. -/
theorem resetHasInv : Obligations.ResetHasInv := by
  unfold Obligations.ResetHasInv
  exact fun prm h => ⟨resetOf_inv h false [] [],
    fun _ hq => (not_some_mem_replicate hq).elim, fun _ hm => by cases hm⟩

end Sys2Proof.Machine

/-! SUPPORT. A word that decodes is the word of the command it decodes to (30_encoding.md R103, R105): one lemma per mask
of R107. -/
namespace Sys2Proof

/-- A word from its fields in format R (R100). -/
theorem wordR_fields (w : Word) : wordR (fieldOp w) (fieldD w) (fieldA w) (fieldB w) (fieldC w) = w := by
  apply BitVec.eq_of_toNat_eq
  have := w.isLt
  simp only [wordR_toNat, fieldOp, fieldD, fieldA, fieldB, fieldC, bitsAt, BitVec.toNat_ofNat]
  omega

/-- A word from its fields in format I (R100). -/
theorem wordI_fields (w : Word) : wordI (fieldOp w) (fieldD w) (fieldA w) (fieldImm w) = w := by
  apply BitVec.eq_of_toNat_eq
  have := w.isLt
  simp only [wordI_toNat, fieldOp, fieldD, fieldA, fieldImm, bitsAt, BitVec.toNat_ofNat]
  omega

/-- A mask acts field by field. -/
theorem wordR_and (op op' : BitVec 8) (d a b c d' a' b' c' : RegNo) :
    wordR op d a b c &&& wordR op' d' a' b' c' =
      wordR (op &&& op') (d &&& d') (a &&& a') (b &&& b') (c &&& c') := by
  simp only [wordR_append]
  change (op ++ d ++ a ++ b ++ c : BitVec (8 + 6 + 6 + 6 + 6)) &&&
    (op' ++ d' ++ a' ++ b' ++ c' : BitVec (8 + 6 + 6 + 6 + 6)) = _
  simp only [BitVec.and_append]

/-- What the match column of a row says of the fields of a word (R105). -/
theorem fields_of_mask {w : Word} {op : BitVec 8} {d a b c : RegNo}
    (h : w &&& wordR 0xFF d a b c = wordI op 0 0 0) :
    fieldOp w = op ∧ fieldD w &&& d = 0 ∧ fieldA w &&& a = 0 ∧ fieldB w &&& b = 0 ∧ fieldC w &&& c = 0 := by
  rw [← wordR_fields w, wordR_and, wordI_zero] at h
  have hop := congrArg fieldOp h
  have hd := congrArg fieldD h
  have ha := congrArg fieldA h
  have hb := congrArg fieldB h
  have hc := congrArg fieldC h
  simp only [fieldOp_wordR, fieldD_wordR, fieldA_wordR, fieldB_wordR, fieldC_wordR] at hop hd ha hb hc
  exact ⟨(and_ff8 _).symm.trans hop, hd, ha, hb, hc⟩

theorem wordR_of_mask_FFFFFFFF {w : Word} {op : BitVec 8} (h : w &&& 0xFFFFFFFF = wordI op 0 0 0) :
    wordR op 0 0 0 0 = w := by
  obtain ⟨hop, hd, ha, hb, hc⟩ := fields_of_mask (show w &&& wordR 0xFF 0x3F 0x3F 0x3F 0x3F = _ from h)
  conv_rhs => rw [← wordR_fields w, hop, (and_ff6 _).symm.trans hd, (and_ff6 _).symm.trans ha,
    (and_ff6 _).symm.trans hb, (and_ff6 _).symm.trans hc]

theorem wordI_of_mask_FF03F000 {w : Word} {op : BitVec 8} (h : w &&& 0xFF03F000 = wordI op 0 0 0) :
    wordI op (fieldD w) 0 (fieldImm w) = w := by
  obtain ⟨hop, -, ha, -, -⟩ := fields_of_mask (show w &&& wordR 0xFF 0 0x3F 0 0 = _ from h)
  conv_rhs => rw [← wordI_fields w, hop, (and_ff6 _).symm.trans ha]

theorem wordR_of_mask_FF000FFF {w : Word} {op : BitVec 8} (h : w &&& 0xFF000FFF = wordI op 0 0 0) :
    wordR op (fieldD w) (fieldA w) 0 0 = w := by
  obtain ⟨hop, -, -, hb, hc⟩ := fields_of_mask (show w &&& wordR 0xFF 0 0 0x3F 0x3F = _ from h)
  conv_rhs => rw [← wordR_fields w, hop, (and_ff6 _).symm.trans hb, (and_ff6 _).symm.trans hc]

theorem wordR_of_mask_FF00003F {w : Word} {op : BitVec 8} (h : w &&& 0xFF00003F = wordI op 0 0 0) :
    wordR op (fieldD w) (fieldA w) (fieldB w) 0 = w := by
  obtain ⟨hop, -, -, -, hc⟩ := fields_of_mask (show w &&& wordR 0xFF 0 0 0 0x3F = _ from h)
  conv_rhs => rw [← wordR_fields w, hop, (and_ff6 _).symm.trans hc]

theorem wordI_of_mask_FFFC0000 {w : Word} {op : BitVec 8} (h : w &&& 0xFFFC0000 = wordI op 0 0 0) :
    wordI op 0 (fieldA w) (fieldImm w) = w := by
  obtain ⟨hop, hd, -, -, -⟩ := fields_of_mask (show w &&& wordR 0xFF 0x3F 0 0 0 = _ from h)
  conv_rhs => rw [← wordI_fields w, hop, (and_ff6 _).symm.trans hd]

theorem wordI_of_mask_FF000000 {w : Word} {op : BitVec 8} (h : w &&& 0xFF000000 = wordI op 0 0 0) :
    wordI op (fieldD w) (fieldA w) (fieldImm w) = w := by
  obtain ⟨hop, -, -, -, -⟩ := fields_of_mask (show w &&& wordR 0xFF 0 0 0 0 = _ from h)
  conv_rhs => rw [← wordI_fields w, hop]

theorem wordR_of_mask_FF000000 {w : Word} {op : BitVec 8} (h : w &&& 0xFF000000 = wordI op 0 0 0) :
    wordR op (fieldD w) (fieldA w) (fieldB w) (fieldC w) = w := by
  obtain ⟨hop, -, -, -, -⟩ := fields_of_mask (show w &&& wordR 0xFF 0 0 0 0 = _ from h)
  conv_rhs => rw [← wordR_fields w, hop]

theorem wordR_of_mask_FF03FFC0 {w : Word} {op : BitVec 8} (h : w &&& 0xFF03FFC0 = wordI op 0 0 0) :
    wordR op (fieldD w) 0 0 (fieldC w) = w := by
  obtain ⟨hop, -, ha, hb, -⟩ := fields_of_mask (show w &&& wordR 0xFF 0 0x3F 0x3F 0 = _ from h)
  conv_rhs => rw [← wordR_fields w, hop, (and_ff6 _).symm.trans ha, (and_ff6 _).symm.trans hb]

theorem wordR_of_mask_FF000FC0 {w : Word} {op : BitVec 8} (h : w &&& 0xFF000FC0 = wordI op 0 0 0) :
    wordR op (fieldD w) (fieldA w) 0 (fieldC w) = w := by
  obtain ⟨hop, -, -, hb, -⟩ := fields_of_mask (show w &&& wordR 0xFF 0 0 0x3F 0 = _ from h)
  conv_rhs => rw [← wordR_fields w, hop, (and_ff6 _).symm.trans hb]

theorem wordR_of_mask_FF03FFFF {w : Word} {op : BitVec 8} (h : w &&& 0xFF03FFFF = wordI op 0 0 0) :
    wordR op (fieldD w) 0 0 0 = w := by
  obtain ⟨hop, -, ha, hb, hc⟩ := fields_of_mask (show w &&& wordR 0xFF 0 0x3F 0x3F 0x3F = _ from h)
  conv_rhs => rw [← wordR_fields w, hop, (and_ff6 _).symm.trans ha,
    (and_ff6 _).symm.trans hb, (and_ff6 _).symm.trans hc]

theorem wordR_of_mask_FFFC003F {w : Word} {op : BitVec 8} (h : w &&& 0xFFFC003F = wordI op 0 0 0) :
    wordR op 0 (fieldA w) (fieldB w) 0 = w := by
  obtain ⟨hop, hd, -, -, hc⟩ := fields_of_mask (show w &&& wordR 0xFF 0x3F 0 0 0x3F = _ from h)
  conv_rhs => rw [← wordR_fields w, hop, (and_ff6 _).symm.trans hd, (and_ff6 _).symm.trans hc]

/-- A row gives every word that passes its mask a command with that word. -/
def Row.Inverse (r : Row) : Prop := ∀ w, w &&& r.mask = r.matchWord → encode (r.build w) = w

theorem rowsSystem_inverse : ∀ r ∈ rowsSystem, r.Inverse := by
  simp only [rowsSystem, List.forall_mem_cons, List.not_mem_nil, false_implies, implies_true, and_true]
  exact ⟨fun _ => wordR_of_mask_FFFFFFFF,
    fun _ => wordI_of_mask_FF03F000,
    fun _ => wordR_of_mask_FF000FFF,
    fun _ => wordR_of_mask_FF00003F,
    fun _ => wordR_of_mask_FF00003F,
    fun _ => wordR_of_mask_FF00003F⟩

theorem rowsField_inverse : ∀ r ∈ rowsField, r.Inverse := by
  simp only [rowsField, List.forall_mem_cons, List.not_mem_nil, false_implies, implies_true, and_true]
  exact ⟨fun _ => wordI_of_mask_FF03F000,
    fun _ => wordI_of_mask_FFFC0000,
    fun _ => wordI_of_mask_FF03F000,
    fun _ => wordR_of_mask_FF000FFF,
    fun _ => wordR_of_mask_FF00003F,
    fun _ => wordR_of_mask_FF00003F,
    fun _ => wordR_of_mask_FF000FFF,
    fun _ => wordR_of_mask_FF00003F,
    fun _ => wordR_of_mask_FF000FFF,
    fun _ => wordR_of_mask_FF000FFF,
    fun _ => wordI_of_mask_FF000000,
    fun _ => wordR_of_mask_FF000FFF,
    fun _ => wordR_of_mask_FF000FFF,
    fun _ => wordR_of_mask_FF00003F,
    fun _ => wordR_of_mask_FF000000,
    fun _ => wordR_of_mask_FF000FFF,
    fun _ => wordR_of_mask_FF000000,
    fun _ => wordR_of_mask_FF03FFC0,
    fun _ => wordR_of_mask_FF000FC0,
    fun _ => wordR_of_mask_FF00003F,
    fun _ => wordR_of_mask_FF000FFF,
    fun _ => wordR_of_mask_FF000FFF⟩

theorem rowsScalar_inverse : ∀ r ∈ rowsScalar, r.Inverse := by
  simp only [rowsScalar, List.forall_mem_cons, List.not_mem_nil, false_implies, implies_true, and_true]
  exact ⟨fun _ => wordI_of_mask_FF03F000,
    fun _ => wordI_of_mask_FF03F000,
    fun _ => wordI_of_mask_FFFC0000,
    fun _ => wordR_of_mask_FF000FFF,
    fun _ => wordR_of_mask_FF00003F,
    fun _ => wordR_of_mask_FF00003F,
    fun _ => wordR_of_mask_FF00003F,
    fun _ => wordR_of_mask_FF000FFF,
    fun _ => wordR_of_mask_FF000FFF,
    fun _ => wordR_of_mask_FF000FFF,
    fun _ => wordR_of_mask_FF00003F,
    fun _ => wordR_of_mask_FF000FFF,
    fun _ => wordR_of_mask_FF000FFF,
    fun _ => wordR_of_mask_FF000FFF,
    fun _ => wordI_of_mask_FF000000,
    fun _ => wordI_of_mask_FF000000,
    fun _ => wordI_of_mask_FFFC0000⟩

theorem rowsPoint_inverse : ∀ r ∈ rowsPoint, r.Inverse := by
  simp only [rowsPoint, List.forall_mem_cons, List.not_mem_nil, false_implies, implies_true, and_true]
  exact ⟨fun _ => wordR_of_mask_FF03FFFF,
    fun _ => wordR_of_mask_FF03FFFF,
    fun _ => wordR_of_mask_FF000FFF,
    fun _ => wordI_of_mask_FF000000,
    fun _ => wordI_of_mask_FFFC0000,
    fun _ => wordR_of_mask_FF000FFF,
    fun _ => wordR_of_mask_FF000FFF,
    fun _ => wordR_of_mask_FF000FFF,
    fun _ => wordR_of_mask_FF000FFF,
    fun _ => wordR_of_mask_FF000FFF,
    fun _ => wordR_of_mask_FF000FFF,
    fun _ => wordR_of_mask_FF000FFF,
    fun _ => wordR_of_mask_FF00003F,
    fun _ => wordR_of_mask_FF00003F,
    fun _ => wordR_of_mask_FF000FFF,
    fun _ => wordR_of_mask_FF000000,
    fun _ => wordR_of_mask_FF03FFC0,
    fun _ => wordR_of_mask_FF000FC0,
    fun _ => wordR_of_mask_FF00003F,
    fun _ => wordR_of_mask_FF000FFF,
    fun _ => wordR_of_mask_FF000FFF,
    fun _ => wordR_of_mask_FF000FFF,
    fun _ => wordR_of_mask_FF00003F,
    fun _ => wordR_of_mask_FF00003F,
    fun _ => wordR_of_mask_FF000FFF⟩

theorem rowsMult_inverse : ∀ r ∈ rowsMult, r.Inverse := by
  simp only [rowsMult, List.forall_mem_cons, List.not_mem_nil, false_implies, implies_true, and_true]
  exact ⟨fun _ => wordR_of_mask_FF00003F,
    fun _ => wordR_of_mask_FF000000,
    fun _ => wordR_of_mask_FFFFFFFF,
    fun _ => wordR_of_mask_FFFC003F,
    fun _ => wordR_of_mask_FF03FFFF,
    fun _ => wordR_of_mask_FF000FFF,
    fun _ => wordI_of_mask_FF000000⟩

theorem rows_inverse : ∀ r ∈ rows, r.Inverse := by
  simp only [rows, List.forall_mem_append]
  exact ⟨⟨⟨⟨rowsSystem_inverse, rowsField_inverse⟩, rowsScalar_inverse⟩, rowsPoint_inverse⟩, rowsMult_inverse⟩

/-- A word that decodes is the word of the command it decodes to (30_encoding.md R103). -/
theorem encode_of_decode {prm : Params} {w : Word} {i : Instr} (h : decode prm w = .ok i) : encode i = w := by
  unfold decode at h
  split at h
  · cases h
  · next r hr =>
    split at h
    · next hm =>
      split at h
      · cases h
        exact rows_inverse r (List.mem_of_find?_eq_some hr) w hm
      · cases h
    · cases h

end Sys2Proof

namespace Sys2Proof.Machine

/-! ### A write to CMD (10_state.md R48) -/

/-- An aligned access to the registers of the window, outside reset, is performed. -/
theorem busAccess_of_lt {s : State} {offset : Nat} (act : Result) (hr : s.resetIn = false) (ho : offset % 4 = 0)
    (hlt : offset < oramOffset) : busAccess s offset act = act := by
  have : ¬windowEnd s.params ≤ offset := by
    unfold windowEnd
    omega
  simp [busAccess, hr, ho, this]

/-- A write to CMD is what `acceptWord` does of its word, the event taken. -/
theorem step_cmd {s : State} {w : Word} {es : List BusEvent} (hb : s.bus = .write cmdOffset w :: es)
    (hr : s.resetIn = false) : step s = acceptWord w { s with bus := es } := by
  simp only [step, nextEvent, hb, busEvent, if_true]
  exact busAccess_of_lt _ hr (by decide) (by decide)

/-- Settles O6. -/
theorem stepRunsDecodedCommand : Obligations.StepRunsDecodedCommand := by
  unfold Obligations.StepRunsDecodedCommand
  intro s w es i hb hr hf hd
  rw [step_cmd hb hr]
  obtain ⟨h, -⟩ | ⟨-, k, h, -⟩ | ⟨-, j, h, ha⟩ := acceptWord_cases w { s with bus := es }
  · exact absurd (hf.symm.trans h) Bool.false_ne_true
  · cases hd.symm.trans h
  · cases hd.symm.trans h
    exact ha

/-- Settles O7: that the record holds the word written rests on `encode_of_decode`. -/
theorem cmdWrite : Obligations.CmdWrite := by
  unfold Obligations.CmdWrite
  intro s u w es hb hr hu
  subst hu
  rw [step_cmd hb hr]
  obtain ⟨h, ha⟩ | ⟨hf, k, -, ha⟩ | ⟨hf, i, hd, ha⟩ := acceptWord_cases w { s with bus := es }
  · exact ⟨fun _ => ha, fun hf => absurd (hf.symm.trans h) Bool.false_ne_true⟩
  · exact ⟨fun h => absurd (hf.symm.trans h) Bool.false_ne_true, fun _ => ⟨_, ha, .inr ⟨k, rfl⟩⟩⟩
  · refine ⟨fun h => absurd (hf.symm.trans h) Bool.false_ne_true, fun _ => ?_⟩
    obtain ⟨t, ht⟩ := exec_next i { s with bus := es }
    refine ⟨t, ha.trans ht, ?_⟩
    obtain ⟨k, hk⟩ | ⟨hc, htf⟩ := exec_count ht
    · exact .inr ⟨k, by rw [hk, encode_of_decode hd]⟩
    · exact .inl ⟨i, hd, ht, htf.trans hf, hc⟩

end Sys2Proof.Machine

/-! SUPPORT. The registers of the host's window (10_state.md R45 to R54), bit by bit. -/
namespace Sys2Proof.Machine

/-! ### Sums of bits and of tags -/

/-- The bits of a sum of bits. -/
theorem testBit_bitSum (bit : Nat → Bool) (lo n i : Nat) :
    (bitSum (fun j => (bit j).toNat) lo n).testBit i = (decide (i < n) && bit (lo + i)) := by
  induction n generalizing lo i with
  | zero => simp [bitSum]
  | succ n ih =>
    cases i with
    | zero => cases h : bit lo <;> simp [bitSum, h, Nat.testBit_zero, Nat.add_mod]
    | succ i =>
      have hd : ((bit lo).toNat + 2 * bitSum (fun j => (bit j).toNat) (lo + 1) n) / 2 =
          bitSum (fun j => (bit j).toNat) (lo + 1) n := by
        have := Bool.toNat_lt (bit lo)
        omega
      rw [bitSum, Nat.testBit_succ, hd, ih]
      simp [Nat.add_comm, Nat.add_left_comm]

theorem bitSum_lt (bit : Nat → Bool) (lo n : Nat) : bitSum (fun j => (bit j).toNat) lo n < 2 ^ n := by
  induction n generalizing lo with
  | zero => exact Nat.one_pos
  | succ n ih =>
    have h := ih (lo + 1)
    have := Bool.toNat_lt (bit lo)
    rw [bitSum]
    omega

/-- The bits of a number in two parts. -/
theorem testBit_add_mul_two_pow {a k : Nat} (ha : a < 2 ^ k) (b i : Nat) :
    (a + b * 2 ^ k).testBit i = if i < k then a.testBit i else b.testBit (i - k) := by
  rw [Nat.add_comm, Nat.mul_comm, Nat.testBit_two_pow_mul_add _ ha]

/-- The field of four bits of a sum of tags. -/
theorem tagSum_field (s : State) (lo n k : Nat) (hk : k < n) :
    tagSum s lo n / 2 ^ (4 * k) % 16 = (tagCode (s.P.getD (lo + k) none)).toNat := by
  induction n generalizing lo k with
  | zero => omega
  | succ n ih =>
    have ht : (tagCode (s.P.getD lo none)).toNat < 8 := (tagCode (s.P.getD lo none)).isLt
    cases k with
    | zero =>
      rw [tagSum, Nat.mul_zero, Nat.pow_zero, Nat.div_one, Nat.add_mul_mod_self_left]
      exact Nat.mod_eq_of_lt (by omega)
    | succ k =>
      have hd : tagSum s lo (n + 1) / 16 = tagSum s (lo + 1) n := by
        rw [tagSum]
        omega
      rw [show 2 ^ (4 * (k + 1)) = 16 * 2 ^ (4 * k) by rw [Nat.mul_add, Nat.pow_add, Nat.mul_comm],
        ← Nat.div_div_eq_div_mul, hd, ih _ _ (by omega), show lo + 1 + k = lo + (k + 1) by omega]

/-! ### The mirror registers (R51, R54) -/

/-- Whether register `i` of a file exists and is not EMPTY. -/
def heldAt {α : Type} (file : List (Option α)) (i : Nat) : Bool := (file.getD i none).isSome

theorem validBit_eq {α : Type} (file : List (Option α)) : validBit file = fun i => (heldAt file i).toNat := rfl

/-- CHOICE bit by bit (R51). -/
theorem choiceWord_bit (s : State) (i : Nat) : (choiceWord s).getLsbD i =
    if i < 8 then decide (s.C.getD i none = some true)
    else decide (i < 16) && heldAt s.C (i - 8) := by
  rw [choiceWord, BitVec.getLsbD_ofNat, validBit_eq, testBit_add_mul_two_pow (bitSum_lt _ 0 8), testBit_bitSum,
    testBit_bitSum]
  split
  · next h =>
    rw [decide_eq_true (show i < 32 by omega), decide_eq_true h, Nat.zero_add, Bool.true_and, Bool.true_and,
      Bool.beq_eq_decide_eq]
  · next h =>
    rw [Nat.zero_add, ← Bool.and_assoc]
    congr 1
    rw [← Bool.decide_and, decide_eq_decide]
    omega

/-- RVALID bit by bit (R54). -/
theorem rvalidWord_bit (s : State) (i : Nat) : (rvalidWord s).getLsbD i =
    if i < 24 then if i < 16 then heldAt s.F i else heldAt s.S (i - 16)
    else decide (i < 26) && heldAt s.DG (i - 24) := by
  have hF := bitSum_lt (heldAt s.F) 0 16
  have hS := bitSum_lt (heldAt s.S) 0 8
  rw [rvalidWord, BitVec.getLsbD_ofNat, validBit_eq, validBit_eq, validBit_eq,
    testBit_add_mul_two_pow (by omega), testBit_add_mul_two_pow hF, testBit_bitSum, testBit_bitSum, testBit_bitSum]
  simp only [Nat.zero_add]
  split
  · next h =>
    split
    · next h' => rw [decide_eq_true (show i < 32 by omega), decide_eq_true h', Bool.true_and, Bool.true_and]
    · next h' =>
      rw [decide_eq_true (show i < 32 by omega), decide_eq_true (show i - 16 < 8 by omega), Bool.true_and, Bool.true_and]
  · next h =>
    rw [← Bool.and_assoc]
    congr 1
    rw [← Bool.decide_and, decide_eq_decide]
    omega

theorem tagSum_lt (s : State) (lo n : Nat) : tagSum s lo n < 16 ^ n := by
  induction n generalizing lo with
  | zero => exact Nat.one_pos
  | succ n ih =>
    have h := ih (lo + 1)
    have := (tagCode (s.P.getD lo none)).isLt
    rw [tagSum]
    omega

/-- PTAG field by field (R54). -/
theorem ptagWord_field (s : State) {k : Nat} (hk : k < 8) :
    (ptagWord s).toNat / 2 ^ (4 * k) % 16 = (tagCode (s.P.getD k none)).toNat := by
  have h := tagSum_field s 0 8 k hk
  have ht : tagSum s 0 8 < 2 ^ 32 := tagSum_lt s 0 8
  rwa [Nat.zero_add, ← Nat.mod_eq_of_lt ht, ← BitVec.toNat_ofNat] at h

/-- The low three bits of a field of PTAG, and its top bit. -/
theorem ptagWord_bits (s : State) {k : Nat} (hk : k < 8) :
    (ptagWord s).extractLsb' (4 * k) 3 = tagCode (s.P.getD k none) ∧ (ptagWord s).getLsbD (4 * k + 3) = false := by
  have h := ptagWord_field s hk
  have ht := (tagCode (s.P.getD k none)).isLt
  constructor
  · apply BitVec.eq_of_toNat_eq
    rw [BitVec.extractLsb'_toNat, Nat.shiftRight_eq_div_pow]
    omega
  · rw [BitVec.getLsbD, Nat.testBit_eq_decide_div_mod_eq, Nat.pow_add, ← Nat.div_div_eq_div_mul, decide_eq_false_iff_not]
    omega

/-! ### The parameter registers (R47) -/

/-- The bytes of a number given by its bytes. -/
theorem bytes_of_sum {a b c d : Nat} (ha : a < 256) (hb : b < 256) (hc : c < 256) (hd : d < 256) {n : Nat}
    (hn : n = a + b * 2 ^ 8 + c * 2 ^ 16 + d * 2 ^ 24) :
    n < 2 ^ 32 ∧ n / 2 ^ 0 % 2 ^ 8 = a ∧ n / 2 ^ 8 % 2 ^ 8 = b ∧ n / 2 ^ 16 % 2 ^ 8 = c ∧ n / 2 ^ 24 % 2 ^ 8 = d := by
  omega

/-- A byte of a word. -/
theorem byte_ofNat {n : Nat} (h : n < 2 ^ 32) (k : Nat) :
    ((BitVec.ofNat 32 n).extractLsb' k 8).toNat = n / 2 ^ k % 2 ^ 8 := by
  rw [BitVec.extractLsb'_toNat, BitVec.toNat_ofNat, Nat.mod_eq_of_lt h, Nat.shiftRight_eq_div_pow]

/-- The bytes of PARAM0 (R47). -/
theorem param0_bytes {prm : Params} (h : prm.Legal) :
    ((param0 prm).extractLsb' 0 8).toNat = prm.nf ∧ ((param0 prm).extractLsb' 8 8).toNat = prm.ns ∧
    ((param0 prm).extractLsb' 16 8).toNat = prm.np ∧ ((param0 prm).extractLsb' 24 8).toNat = prm.nc := by
  obtain ⟨hf, hs, hp, hc, -, -, -⟩ := h
  obtain ⟨hlt, h0, h1, h2, h3⟩ := bytes_of_sum (a := prm.nf) (b := prm.ns) (c := prm.np) (d := prm.nc) (by omega)
    (by omega) (by omega) (by omega) rfl
  rw [param0, byte_ofNat hlt, byte_ofNat hlt, byte_ofNat hlt, byte_ofNat hlt]
  exact ⟨h0, h1, h2, h3⟩

/-- The bytes of PARAM1 below DECOMP_REJECT_NEG_ZERO (R47). -/
theorem param1_bytes {prm : Params} (h : prm.Legal) :
    ((param1 prm).extractLsb' 0 8).toNat = prm.ndg ∧ ((param1 prm).extractLsb' 8 8).toNat = prm.nslot ∧
    ((param1 prm).extractLsb' 16 8).toNat = prm.msmCap := by
  obtain ⟨-, -, -, -, hdg, hslot, hcap⟩ := h
  obtain ⟨hlt, h0, h1, h2, -⟩ := bytes_of_sum (a := prm.ndg) (b := prm.nslot) (c := prm.msmCap)
    (d := prm.rejectNegZero.toNat) (by omega) (by omega) (by omega) ((Bool.toNat_lt _).trans (by decide)) rfl
  rw [param1, byte_ofNat hlt, byte_ofNat hlt, byte_ofNat hlt]
  exact ⟨h0, h1, h2⟩
/-- DECOMP_REJECT_NEG_ZERO in bit 24 of PARAM1, and 0 above (R47). -/
theorem param1_high {prm : Params} (h : prm.Legal) (i : Nat) (hi : 24 ≤ i) :
    (param1 prm).getLsbD i = (decide (i = 24) && prm.rejectNegZero) := by
  obtain ⟨-, -, -, -, hdg, hslot, hcap⟩ := h
  rw [param1, BitVec.getLsbD_ofNat, testBit_add_mul_two_pow (by omega), if_neg (by omega)]
  obtain rfl | hi := Nat.eq_or_lt_of_le hi
  · cases prm.rejectNegZero <;> rfl
  · have hlt : prm.rejectNegZero.toNat < 2 ^ (i - 24) :=
      (Bool.toNat_lt _).trans_le (Nat.pow_le_pow_right Nat.two_pos (show 1 ≤ i - 24 by omega))
    rw [Nat.testBit_lt_two_pow hlt, Bool.and_false, decide_eq_false (by omega), Bool.false_and]

/-- Settles O59. -/
theorem mirrorRegisters : Obligations.MirrorRegisters := by
  unfold Obligations.MirrorRegisters
  intro s
  have hc (i : Nat) : (hostRead s 0x028).getLsbD i = _ := choiceWord_bit s i
  have hv (i : Nat) : (hostRead s 0x038).getLsbD i = _ := rvalidWord_bit s i
  have h1 (hl : s.params.Legal) (i : Nat) (hi : 24 ≤ i) : (hostRead s 0x00C).getLsbD i = _ :=
    param1_high hl i hi
  refine ⟨fun i hi => ⟨?_, ?_⟩, fun i hi => ?_, fun i hi => ⟨?_, ?_⟩, fun i hi => ?_, fun i hi => ?_, fun i hi => ?_,
    fun i hi => ?_, fun hl => ?_⟩
  · rw [hc, if_pos hi]
  · rw [hc, if_neg (by omega), decide_eq_true (by omega), Nat.add_sub_cancel_left, Bool.true_and]; rfl
  · rw [hc, if_neg (by omega), decide_eq_false (by omega), Bool.false_and]
  · exact (ptagWord_bits s hi).1
  · exact (ptagWord_bits s hi).2
  · rw [hv, if_pos (by omega), if_pos hi]; rfl
  · rw [hv, if_pos (by omega), if_neg (by omega), Nat.add_sub_cancel_left]; rfl
  · rw [hv, if_neg (by omega), decide_eq_true (by omega), Nat.add_sub_cancel_left, Bool.true_and]; rfl
  · rw [hv, if_neg (by omega), decide_eq_false (by omega), Bool.false_and]
  · obtain ⟨hnf, hns, hnp, hnc⟩ := param0_bytes hl
    obtain ⟨hndg, hnslot, hcap⟩ := param1_bytes hl
    exact ⟨hnf, hns, hnp, hnc, hndg, hnslot, hcap, (h1 hl 24 (by omega)).trans (by simp),
      fun i hi => (h1 hl i (by omega)).trans (by simp; omega)⟩

/-! ### STATUS, MSMCNT and the resets -/

/-- Settles O58. -/
theorem statusRegisters : Obligations.StatusRegisters := by
  unfold Obligations.StatusRegisters
  intro s
  have hs (i : Nat) : (hostRead s 0x014).getLsbD i = (BitVec.ofNat 32 (s.fault.toNat + 2)).getLsbD i := rfl
  refine ⟨rfl, rfl, ⟨?_, ?_, fun i hi => ?_⟩, rfl, fun h => ⟨?_, h.pairs⟩, ?_, rfl, rfl⟩
  · rw [hs]; cases s.fault <;> rfl
  · rw [hs]; cases s.fault <;> rfl
  · have hlt : s.fault.toNat + 2 < 2 ^ i :=
      calc s.fault.toNat + 2 < 2 ^ 2 := by have := Bool.toNat_lt s.fault; omega
        _ ≤ 2 ^ i := Nat.pow_le_pow_right (by decide) hi
    rw [hs, BitVec.getLsbD_ofNat, Nat.testBit_lt_two_pow hlt, Bool.and_false]
  · have hcap : s.params.msmCap ≤ 255 := h.params.2.2.2.2.2.2.2
    have := h.pairs
    show (BitVec.ofNat 32 (s.msm.length % 2 ^ 8)).toNat = _
    rw [BitVec.toNat_ofNat]
    omega
  · show (s.faultcode.setWidth 32).toNat = _
    rw [BitVec.toNat_setWidth]
    exact Nat.mod_eq_of_lt (s.faultcode.isLt.trans (by decide))

/-- A write to CTRL resets the block by bit 0 and by nothing else (R53). -/
theorem hostWrite_ctrl (s : State) (w : Word) :
    hostWrite s ctrlOffset w = if w.getLsbD 0 then s.resetBlock else s := by
  rw [hostWrite, if_pos rfl]

/-- Settles O55. -/
theorem softReset : Obligations.SoftReset := by
  unfold Obligations.SoftReset
  refine ⟨fun s w es hb hr => ?_, fun _ => rfl⟩
  simp only [step, nextEvent, hb, busEvent]
  rw [busAccess_of_lt (s := { s with bus := es }) _ hr (by decide) (by decide), if_neg (by decide)]
  exact congrArg _ (hostWrite_ctrl { s with bus := es } w)

/-! ### The reset state (R58) -/

/-- A file of EMPTY registers mirrors as 0. -/
theorem bitSum_eq_zero {bit : Nat → Nat} (h : ∀ i, bit i = 0) (lo n : Nat) : bitSum bit lo n = 0 := by
  induction n generalizing lo with
  | zero => rfl
  | succ n ih => rw [bitSum, h, ih]

theorem getD_replicate_none {α : Type} (n i : Nat) : (List.replicate n (none : Option α)).getD i none = none := by
  rw [List.getD_eq_getElem?_getD, List.getElem?_replicate]
  split <;> rfl

theorem bitSum_validBit_empty {α : Type} (m lo n : Nat) :
    bitSum (validBit (List.replicate m (none : Option α))) lo n = 0 :=
  bitSum_eq_zero (fun i => by rw [validBit, getD_replicate_none]; rfl) lo n

/-- What the host reads of a block in its reset state, whatever the level of the reset input (R58). -/
theorem reset_mirrors {t : State} {prm : Params} (hC : t.C = List.replicate prm.nc none)
    (hP : t.P = List.replicate prm.np none) (hF : t.F = List.replicate prm.nf none)
    (hS : t.S = List.replicate prm.ns none) (hDG : t.DG = List.replicate prm.ndg none) :
    choiceWord t = 0 ∧ ptagWord t = 0 ∧ rvalidWord t = 0 := by
  refine ⟨?_, ?_, ?_⟩
  · rw [choiceWord, hC, bitSum_validBit_empty, bitSum_eq_zero fun i => by rw [getD_replicate_none]; rfl]
    rfl
  · have h (lo n : Nat) : tagSum t lo n = 0 := by
      induction n generalizing lo with
      | zero => rfl
      | succ n ih => rw [tagSum, ih, hP, getD_replicate_none]; rfl
    rw [ptagWord, h]
    rfl
  · rw [rvalidWord, hF, hS, hDG, bitSum_validBit_empty, bitSum_validBit_empty, bitSum_validBit_empty]
    rfl

/-- Settles O54. -/
theorem resetState : Obligations.ResetState := by
  unfold Obligations.ResetState
  refine ⟨fun s t h => ?_, rfl, rfl, rfl⟩
  obtain ⟨r, rfl⟩ : ∃ r, t = { s.resetBlock with resetIn := r } := by
    rcases h with rfl | rfl
    · exact ⟨s.resetIn, rfl⟩
    · exact ⟨true, rfl⟩
  obtain ⟨hc, hp, hv⟩ := reset_mirrors (t := { s.resetBlock with resetIn := r }) (prm := s.params) rfl rfl rfl rfl rfl
  refine ⟨rfl, fun n => ⟨?_, ?_, ?_, ?_, ?_⟩, rfl, fun _ => rfl, rfl, rfl, rfl, rfl, rfl, rfl, rfl, rfl, rfl, rfl, rfl,
    rfl, rfl, rfl, hc, rfl, hp, hv⟩ <;> exact getD_replicate_none _ _

end Sys2Proof.Machine

/-! SUPPORT. Limb vectors of one value (10_state.md R33): canonical limbs, what of the field datapath depends on the value
alone, and which results have one value again. Two contents are `Alike` when one value is that of both, in the sense of
Laws/Datapath.lean and Laws/Points.lean. -/
namespace Sys2Proof.Machine

/-! ### Canonical limbs -/

/-- Limbs below 2^51 are those of their integer. -/
theorem Fe.eq_ofValue {x : Fe} (h : x.Below 51) : x = Fe.ofValue x.limbSum := by
  obtain ⟨h0, h1, h2, h3, h4⟩ := h
  obtain ⟨l0, l1, l2, l3, l4⟩ := x
  simp only [Fe.ofValue, Fe.ofLimbs, Fe.limbSum, and_M51, Nat.shiftRight_eq_div_pow, Fe.mk.injEq] at h0 h1 h2 h3 h4 ⊢
  refine ⟨?_, ?_, ?_, ?_, ?_⟩ <;> apply BitVec.eq_of_toNat_eq <;> rw [BitVec.toNat_ofNat] <;> omega

/-- The integer of canonical limbs. -/
theorem Fe.ofValue_limbSum {v : Nat} (h : v < 2 ^ 255) : (Fe.ofValue v).limbSum = v := by
  simp only [Fe.ofValue, and_M51, Nat.shiftRight_eq_div_pow]
  rw [Fe.ofLimbs_limbSum _ _ _ _ _ (by omega) (by omega) (by omega) (by omega) (by omega)]
  omega

theorem Fe.fval_lt (x : Fe) : x.fval < p := Nat.mod_lt _ (by decide)

theorem p_lt : p < 2 ^ 255 := by decide

theorem Fe.canon_fval (x : Fe) : x.canon.fval = x.fval := by
  rw [Fe.canon, Fe.fval, Fe.ofValue_limbSum (x.fval_lt.trans p_lt), Nat.mod_eq_of_lt x.fval_lt]

theorem Fe.gf_eq_iff (x y : Fe) : x.gf = y.gf ↔ x.fval = y.fval := by
  rw [Fe.gf, Fe.gf, gf_natCast_eq_iff, Nat.mod_eq_of_lt x.fval_lt, Nat.mod_eq_of_lt y.fval_lt]

/-- Canonical limbs are equal exactly when the values are. -/
theorem Fe.canon_eq_iff (x y : Fe) : x.canon = y.canon ↔ x.gf = y.gf := by
  rw [Fe.gf_eq_iff]
  exact ⟨fun h => by rw [← x.canon_fval, h, y.canon_fval], fun h => by rw [Fe.canon, h, Fe.canon]⟩

/-- `fe_weak` of loose limbs leaves them just above 2^51 at most (41_field.md R152). -/
theorem feWeak_near {x : Fe} (h : x.Below 54) :
    (feWeak x).l0.toNat < 2 ^ 51 + 152 ∧ (feWeak x).l1.toNat < 2 ^ 51 + 8 ∧ (feWeak x).l2.toNat < 2 ^ 51 + 8 ∧
      (feWeak x).l3.toNat < 2 ^ 51 + 8 ∧ (feWeak x).l4.toNat < 2 ^ 51 + 8 := by
  obtain ⟨h0, h1, h2, h3, h4⟩ := h
  simp only [feWeak, and_M51, Nat.shiftRight_eq_div_pow]
  obtain ⟨e0, e1, e2, e3, e4⟩ := Fe.ofLimbs_limbs (x.l0.toNat % 2 ^ 51 + 19 * (x.l4.toNat / 2 ^ 51))
    (x.l1.toNat % 2 ^ 51 + x.l0.toNat / 2 ^ 51) (x.l2.toNat % 2 ^ 51 + x.l1.toNat / 2 ^ 51)
    (x.l3.toNat % 2 ^ 51 + x.l2.toNat / 2 ^ 51) (x.l4.toNat % 2 ^ 51 + x.l3.toNat / 2 ^ 51)
  have c0 : x.l0.toNat / 2 ^ 51 < 8 := by omega
  have c1 : x.l1.toNat / 2 ^ 51 < 8 := by omega
  have c2 : x.l2.toNat / 2 ^ 51 < 8 := by omega
  have c3 : x.l3.toNat / 2 ^ 51 < 8 := by omega
  have c4 : x.l4.toNat / 2 ^ 51 < 8 := by omega
  rw [e0, e1, e2, e3, e4]
  refine ⟨?_, ?_, ?_, ?_, ?_⟩ <;> refine (Nat.mod_le ..).trans_lt ?_ <;> omega

/-- The last steps of `fe_tobytes` on weakly reduced limbs: the integer, less `p` where it is not below `p` (R158). -/
theorem canon_carries {l0 l1 l2 l3 l4 : Nat} (h0 : l0 < 2 ^ 51 + 152) (h1 : l1 < 2 ^ 51 + 8) (h2 : l2 < 2 ^ 51 + 8)
    (h3 : l3 < 2 ^ 51 + 8) (h4 : l4 < 2 ^ 51 + 8) {q m0 m1 m2 m3 m4 : Nat}
    (hq : q = (l4 + (l3 + (l2 + (l1 + (l0 + 19) / 2 ^ 51) / 2 ^ 51) / 2 ^ 51) / 2 ^ 51) / 2 ^ 51)
    (e0 : m0 = l0 + 19 * q) (e1 : m1 = l1 + m0 / 2 ^ 51) (e2 : m2 = l2 + m1 / 2 ^ 51) (e3 : m3 = l3 + m2 / 2 ^ 51)
    (e4 : m4 = l4 + m3 / 2 ^ 51) :
    ∃ k, m0 % 2 ^ 51 + m1 % 2 ^ 51 * 2 ^ 51 + m2 % 2 ^ 51 * 2 ^ 102 + m3 % 2 ^ 51 * 2 ^ 153 + m4 % 2 ^ 51 * 2 ^ 204 +
        k * p = l0 + l1 * 2 ^ 51 + l2 * 2 ^ 102 + l3 * 2 ^ 153 + l4 * 2 ^ 204 ∧
      m0 % 2 ^ 51 + m1 % 2 ^ 51 * 2 ^ 51 + m2 % 2 ^ 51 * 2 ^ 102 + m3 % 2 ^ 51 * 2 ^ 153 + m4 % 2 ^ 51 * 2 ^ 204 < p := by
  refine ⟨q, ?_⟩
  have hq' : q = 0 ∨ q = 1 := by omega
  simp only [p]
  rcases hq' with rfl | rfl <;> omega

/-- A carry into a limb of weakly reduced form is not narrowed. -/
theorem u64_carry {a b : Nat} (ha : a < 2 ^ 52) (hb : b < 2 ^ 64) :
    u64 (a + b / 2 ^ 51) = a + b / 2 ^ 51 ∧ a + b / 2 ^ 51 < 2 ^ 64 := by
  have h : a + b / 2 ^ 51 < 2 ^ 64 := by omega
  exact ⟨Nat.mod_eq_of_lt h, h⟩

/-- The integer of `fe_tobytes`' limbs: that of the weakly reduced ones, less a multiple of `p`, and below `p` (R158). -/
theorem feCanonLimbs_limbSum {x : Fe} (h : x.Below 54) :
    (feCanonLimbs x).Below 51 ∧ ∃ k, (feCanonLimbs x).limbSum + k * p = (feWeak x).limbSum ∧
      (feCanonLimbs x).limbSum < p := by
  obtain ⟨h0, h1, h2, h3, h4⟩ := feWeak_near h
  simp only [feCanonLimbs, and_M51, Nat.shiftRight_eq_div_pow, Fe.limbSum.eq_def (feWeak x)]
  generalize (feWeak x).l0.toNat = l0, (feWeak x).l1.toNat = l1, (feWeak x).l2.toNat = l2,
    (feWeak x).l3.toNat = l3, (feWeak x).l4.toNat = l4 at *
  have b0 : l0 + 19 < 2 ^ 64 := by omega
  obtain ⟨a1, b1⟩ := u64_carry (show l1 < 2 ^ 52 by omega) b0
  obtain ⟨a2, b2⟩ := u64_carry (show l2 < 2 ^ 52 by omega) b1
  obtain ⟨a3, b3⟩ := u64_carry (show l3 < 2 ^ 52 by omega) b2
  obtain ⟨a4, -⟩ := u64_carry (show l4 < 2 ^ 52 by omega) b3
  rw [show u64 (l0 + 19) = l0 + 19 from Nat.mod_eq_of_lt b0, a1, a2, a3, a4]
  clear a1 a2 a3 a4 b0 b1 b2 b3
  have hq2 : (l4 + (l3 + (l2 + (l1 + (l0 + 19) / 2 ^ 51) / 2 ^ 51) / 2 ^ 51) / 2 ^ 51) / 2 ^ 51 < 2 := by omega
  have key := canon_carries h0 h1 h2 h3 h4
    (q := (l4 + (l3 + (l2 + (l1 + (l0 + 19) / 2 ^ 51) / 2 ^ 51) / 2 ^ 51) / 2 ^ 51) / 2 ^ 51) rfl rfl rfl rfl rfl rfl
  generalize (l4 + (l3 + (l2 + (l1 + (l0 + 19) / 2 ^ 51) / 2 ^ 51) / 2 ^ 51) / 2 ^ 51) / 2 ^ 51 = q at *
  have b0 : l0 + 19 * q < 2 ^ 64 := by omega
  obtain ⟨a1, b1⟩ := u64_carry (show l1 < 2 ^ 52 by omega) b0
  obtain ⟨a2, b2⟩ := u64_carry (show l2 < 2 ^ 52 by omega) b1
  obtain ⟨a3, b3⟩ := u64_carry (show l3 < 2 ^ 52 by omega) b2
  obtain ⟨a4, -⟩ := u64_carry (show l4 < 2 ^ 52 by omega) b3
  rw [show u64 (l0 + 19 * q) = l0 + 19 * q from Nat.mod_eq_of_lt b0, a1, a2, a3, a4]
  have m (n : Nat) : n % 2 ^ 51 < 2 ^ 51 := Nat.mod_lt _ (by decide)
  have m' (n : Nat) : n % 2 ^ 51 < 2 ^ 64 := (m n).trans (by decide)
  rw [Fe.ofLimbs_limbSum _ _ _ _ _ (m' _) (m' _) (m' _) (m' _) (m' _)]
  exact ⟨Fe.below_ofLimbs _ _ _ _ _ _ (m _) (m _) (m _) (m _) (m _), key⟩

/-- `fe_tobytes` reduces loose limbs to the canonical ones of their value (R158). -/
theorem feCanonLimbs_eq {x : Fe} (h : x.Below 54) : feCanonLimbs x = x.canon := by
  obtain ⟨hb, k, hk, hlt⟩ := feCanonLimbs_limbSum h
  rw [Fe.eq_ofValue hb, Fe.canon]
  congr 1
  rw [Fe.fval, ← feWeak_limbSum x, ← hk, Nat.add_mul_mod_self_right, Nat.add_mul_mod_self_right, Nat.mod_eq_of_lt hlt]

end Sys2Proof.Machine

namespace Sys2Proof.Machine

/-! ### Contents of one value -/

/-- Two contents with one value, `R` saying what the value of a content is. -/
def Alike {α β : Type} (R : α → β → Prop) (x y : α) : Prop := ∃ v, R x v ∧ R y v

/-- The same choice between contents alike. -/
theorem Alike.ite {α β : Type} {R : α → β → Prop} {x y x' y' : α} (h : Alike R x y) (h' : Alike R x' y')
    (c : Prop) [Decidable c] :
    Alike R (if c then x else x') (if c then y else y') := by
  split
  · exact h
  · exact h'

/-- Field elements of one value. -/
abbrev FeAlike : Fe → Fe → Prop := Alike Fe.Is

theorem feAlike_iff (x y : Fe) : FeAlike x y ↔ x.Below 54 ∧ y.Below 54 ∧ x.canon = y.canon := by
  rw [Fe.canon_eq_iff]
  constructor
  · rintro ⟨v, ⟨hx, ex⟩, hy, ey⟩
    exact ⟨hx, hy, ex.trans ey.symm⟩
  · rintro ⟨hx, hy, e⟩
    exact ⟨y.gf, ⟨hx, e⟩, hy, rfl⟩

theorem FeAlike.refl {x : Fe} (h : x.Below 54) : FeAlike x x := (feAlike_iff x x).2 ⟨h, h, rfl⟩

/-- The canonical encoding depends on the value alone (41_field.md R158). -/
theorem feToBytes_congr {x y : Fe} (h : FeAlike x y) : feToBytes x = feToBytes y := by
  obtain ⟨hx, hy, e⟩ := (feAlike_iff x y).1 h
  rw [feToBytes, feToBytes, feCanonLimbs_eq hx, feCanonLimbs_eq hy, e]

theorem feIsNegative_congr {x y : Fe} (h : FeAlike x y) : feIsNegative x = feIsNegative y := by
  rw [feIsNegative, feIsNegative, feToBytes_congr h]

theorem feIsZero_congr {x y : Fe} (h : FeAlike x y) : feIsZero x = feIsZero y := by
  rw [feIsZero, feIsZero, feToBytes_congr h]

theorem feCtEq_congr {x y x' y' : Fe} (h : FeAlike x y) (h' : FeAlike x' y') : feCtEq x x' = feCtEq y y' := by
  rw [feCtEq, feCtEq, feToBytes_congr h, feToBytes_congr h']

theorem feMul_congr {x y x' y' : Fe} : FeAlike x y → FeAlike x' y' → FeAlike (feMul x x') (feMul y y')
  | ⟨_, hx, hy⟩, ⟨_, hx', hy'⟩ => ⟨_, feMul_is hx hx', feMul_is hy hy'⟩
theorem feAdd_congr {x y x' y' : Fe} : FeAlike x y → FeAlike x' y' → FeAlike (feAdd x x') (feAdd y y')
  | ⟨_, hx, hy⟩, ⟨_, hx', hy'⟩ => ⟨_, feAdd_is hx hx', feAdd_is hy hy'⟩
theorem feSub_congr {x y x' y' : Fe} : FeAlike x y → FeAlike x' y' → FeAlike (feSub x x') (feSub y y')
  | ⟨_, hx, hy⟩, ⟨_, hx', hy'⟩ => ⟨_, feSub_is hx hx', feSub_is hy hy'⟩
theorem feNeg_congr {x y : Fe} : FeAlike x y → FeAlike (feNeg x) (feNeg y)
  | ⟨_, hx, hy⟩ => ⟨_, feNeg_is hx, feNeg_is hy⟩
theorem feSq_congr {x y : Fe} : FeAlike x y → FeAlike (feSq x) (feSq y)
  | ⟨_, hx, hy⟩ => ⟨_, feSq_is hx, feSq_is hy⟩
theorem feSq2_congr {x y : Fe} : FeAlike x y → FeAlike (feSq2 x) (feSq2 y)
  | ⟨_, hx, hy⟩ => ⟨_, feSq2_is hx, feSq2_is hy⟩
theorem fePow2k_congr {x y : Fe} (k : Nat) : FeAlike x y → FeAlike (fePow2k x k) (fePow2k y k)
  | ⟨_, hx, hy⟩ => ⟨_, fePow2k_is k hx, fePow2k_is k hy⟩
theorem feInvert_congr {x y : Fe} : FeAlike x y → FeAlike (feInvert x) (feInvert y)
  | ⟨_, hx, hy⟩ => ⟨_, feInv_is hx, feInv_is hy⟩

theorem fePow22501_congr {x y : Fe} (h : FeAlike x y) :
    FeAlike (fePow22501 x).1 (fePow22501 y).1 ∧ FeAlike (fePow22501 x).2 (fePow22501 y).2 := by
  obtain ⟨v, ⟨hx, rfl⟩, hy, e⟩ := h
  exact ⟨⟨_, (fePow22501_is x hx).1, e ▸ (fePow22501_is y hy).1⟩,
    ⟨_, (fePow22501_is x hx).2, e ▸ (fePow22501_is y hy).2⟩⟩

theorem fePowP58_congr {x y : Fe} (h : FeAlike x y) : FeAlike (fePowP58 x) (fePowP58 y) :=
  feMul_congr h (fePow2k_congr 2 (fePow22501_congr h).1)

theorem feSelect_congr {x y x' y' : Fe} (h : FeAlike x y) (h' : FeAlike x' y') (c : Bool) :
    FeAlike (feSelect x x' c) (feSelect y y' c) := by
  rw [feSelect_eq, feSelect_eq]
  exact h'.ite h _

theorem feCneg_congr {x y : Fe} (h : FeAlike x y) (c : Bool) : FeAlike (feCneg x c) (feCneg y c) :=
  feSelect_congr h (feNeg_congr h) c

theorem feOne_alike : FeAlike feOne feOne := .refl (by decide)
theorem feSqrtM1_alike : FeAlike feSqrtM1 feSqrtM1 := .refl (by decide)
theorem feMontgomeryA_alike : FeAlike feMontgomeryA feMontgomeryA := .refl (by decide)
theorem feMontgomeryANeg_alike : FeAlike feMontgomeryANeg feMontgomeryANeg := .refl (by decide)
theorem feZero_alike : FeAlike feZero feZero := .refl (by decide)

/-- The candidate root of `fe_sqrt_ratio_i` (41_field.md R165). -/
def sqrtRoot (u v : Fe) : Fe :=
  feMul (feMul u (feMul (feSq v) v)) (fePowP58 (feMul u (feMul (feSq (feMul (feSq v) v)) v)))

/-- `v r^2` for the candidate root. -/
def sqrtCheck (u v : Fe) : Fe := feMul v (feSq (sqrtRoot u v))

/-- The root after the choice between `r` and `i r`. -/
def sqrtPick (u v : Fe) : Fe :=
  feSelect (sqrtRoot u v) (feMul feSqrtM1 (sqrtRoot u v))
    (feCtEq (sqrtCheck u v) (feNeg u) || feCtEq (sqrtCheck u v) (feMul (feNeg u) feSqrtM1))

theorem feSqrtRatio_eq (u v : Fe) : feSqrtRatio u v =
    (feCtEq (sqrtCheck u v) u || feCtEq (sqrtCheck u v) (feNeg u),
      feSelect (sqrtPick u v) (feNeg (sqrtPick u v)) (feIsNegative (sqrtPick u v))) := by
  simp only [feSqrtRatio, strictFe_eq, sqrtPick, sqrtCheck, sqrtRoot]

/-- `fe_sqrt_ratio_i` decides by canonical encodings (41_field.md R165). -/
theorem feSqrtRatio_congr {u v u' v' : Fe} (hu : FeAlike u u') (hv : FeAlike v v') :
    (feSqrtRatio u v).1 = (feSqrtRatio u' v').1 ∧ FeAlike (feSqrtRatio u v).2 (feSqrtRatio u' v').2 := by
  have h3 := feMul_congr (feSq_congr hv) hv
  have h7 := feMul_congr (feSq_congr h3) hv
  have hr : FeAlike (sqrtRoot u v) (sqrtRoot u' v') :=
    feMul_congr (feMul_congr hu h3) (fePowP58_congr (feMul_congr hu h7))
  have hc : FeAlike (sqrtCheck u v) (sqrtCheck u' v') := feMul_congr hv (feSq_congr hr)
  have hn := feNeg_congr hu
  have hp : FeAlike (sqrtPick u v) (sqrtPick u' v') := by
    rw [sqrtPick, sqrtPick, feCtEq_congr hc hn, feCtEq_congr hc (feMul_congr hn feSqrtM1_alike)]
    exact feSelect_congr hr (feMul_congr feSqrtM1_alike hr) _
  rw [feSqrtRatio_eq, feSqrtRatio_eq, feCtEq_congr hc hu, feCtEq_congr hc hn, feIsNegative_congr hp]
  exact ⟨rfl, feSelect_congr hp (feNeg_congr hp) _⟩

/-- ELL2 (45_elligator.md R351). -/
theorem elligator2_congr {r r' : Fe} (h : FeAlike r r') : FeAlike (elligator2 r) (elligator2 r') := by
  have hd := feMul_congr feMontgomeryANeg_alike (feInvert_congr (feAdd_congr feOne_alike (feSq2_congr h)))
  have he := feMul_congr hd (feAdd_congr (feAdd_congr (feSq_congr hd) (feMul_congr feMontgomeryA_alike hd)) feOne_alike)
  simp only [elligator2, strictFe_eq, (feSqrtRatio_congr he feOne_alike).1]
  exact feCneg_congr (feAdd_congr hd (feSelect_congr feMontgomeryA_alike feZero_alike _)) _

/-- MTOE reads the canonical encoding of its source only (45_elligator.md R352). -/
theorem montToEdwards_congr {u u' : Fe} (h : FeAlike u u') (reject sign : Bool) :
    montToEdwards reject u sign = montToEdwards reject u' sign := by
  have hm : FeAlike feMinusOne feMinusOne := .refl (by decide)
  have hy := feMul_congr (feSub_congr h feOne_alike) (feInvert_congr (feAdd_congr h feOne_alike))
  simp only [montToEdwards, strictFe_eq, feCtEq_congr h hm, feToBytes_congr hy]

end Sys2Proof.Machine

/-! SUPPORT. Points and multipliers on contents of one value (43_point.md, 44_scalarmul_msm.md). -/
namespace Sys2Proof.Machine

/-! ### Points -/

/-- `EXT` contents of one value. -/
abbrev ExtAlike : Ext → Ext → Prop := Alike Ext.Is
/-- `PROJ` contents of one value. -/
abbrev ProjAlike : Proj → Proj → Prop := Alike Proj.Is
/-- `COMPL` contents of one value. -/
abbrev ComplAlike : Compl → Compl → Prop := Alike Compl.Is
/-- `PNIELS` contents of one value. -/
abbrev PNielsAlike : PNiels → PNiels → Prop := Alike PNiels.Is
/-- `ANIELS` contents of one value. -/
abbrev ANielsAlike : ANiels → ANiels → Prop := Alike ANiels.Is

theorem extAlike_iff (e f : Ext) :
    ExtAlike e f ↔ FeAlike e.X f.X ∧ FeAlike e.Y f.Y ∧ FeAlike e.Z f.Z ∧ FeAlike e.T f.T := by
  constructor
  · rintro ⟨g, ⟨x, y, z, t⟩, x', y', z', t'⟩
    exact ⟨⟨_, x, x'⟩, ⟨_, y, y'⟩, ⟨_, z, z'⟩, ⟨_, t, t'⟩⟩
  · rintro ⟨⟨X, x, x'⟩, ⟨Y, y, y'⟩, ⟨Z, z, z'⟩, ⟨T, t, t'⟩⟩
    exact ⟨⟨X, Y, Z, T⟩, ⟨x, y, z, t⟩, x', y', z', t'⟩

theorem projAlike_iff (e f : Proj) : ProjAlike e f ↔ FeAlike e.X f.X ∧ FeAlike e.Y f.Y ∧ FeAlike e.Z f.Z := by
  constructor
  · rintro ⟨g, ⟨x, y, z⟩, x', y', z'⟩
    exact ⟨⟨_, x, x'⟩, ⟨_, y, y'⟩, ⟨_, z, z'⟩⟩
  · rintro ⟨⟨X, x, x'⟩, ⟨Y, y, y'⟩, ⟨Z, z, z'⟩⟩
    exact ⟨⟨X, Y, Z⟩, ⟨x, y, z⟩, x', y', z'⟩

theorem complAlike_iff (e f : Compl) :
    ComplAlike e f ↔ FeAlike e.X f.X ∧ FeAlike e.Y f.Y ∧ FeAlike e.Z f.Z ∧ FeAlike e.T f.T := by
  constructor
  · rintro ⟨g, ⟨x, y, z, t⟩, x', y', z', t'⟩
    exact ⟨⟨_, x, x'⟩, ⟨_, y, y'⟩, ⟨_, z, z'⟩, ⟨_, t, t'⟩⟩
  · rintro ⟨⟨X, x, x'⟩, ⟨Y, y, y'⟩, ⟨Z, z, z'⟩, ⟨T, t, t'⟩⟩
    exact ⟨⟨X, Y, Z, T⟩, ⟨x, y, z, t⟩, x', y', z', t'⟩

theorem pnielsAlike_iff (e f : PNiels) : PNielsAlike e f ↔
    FeAlike e.YpX f.YpX ∧ FeAlike e.YmX f.YmX ∧ FeAlike e.Z f.Z ∧ FeAlike e.T2d f.T2d := by
  constructor
  · rintro ⟨g, ⟨x, y, z, t⟩, x', y', z', t'⟩
    exact ⟨⟨_, x, x'⟩, ⟨_, y, y'⟩, ⟨_, z, z'⟩, ⟨_, t, t'⟩⟩
  · rintro ⟨⟨X, x, x'⟩, ⟨Y, y, y'⟩, ⟨Z, z, z'⟩, ⟨T, t, t'⟩⟩
    exact ⟨⟨X, Y, Z, T⟩, ⟨x, y, z, t⟩, x', y', z', t'⟩

theorem anielsAlike_iff (e f : ANiels) :
    ANielsAlike e f ↔ FeAlike e.ypx f.ypx ∧ FeAlike e.ymx f.ymx ∧ FeAlike e.xy2d f.xy2d := by
  constructor
  · rintro ⟨g, ⟨x, y, z⟩, x', y', z'⟩
    exact ⟨⟨_, x, x'⟩, ⟨_, y, y'⟩, ⟨_, z, z'⟩⟩
  · rintro ⟨⟨X, x, x'⟩, ⟨Y, y, y'⟩, ⟨Z, z, z'⟩⟩
    exact ⟨⟨X, Y, Z⟩, ⟨x, y, z⟩, x', y', z'⟩

theorem e2p_congr {e f : Ext} : ExtAlike e f → ProjAlike (e2p e) (e2p f)
  | ⟨_, h, h'⟩ => ⟨_, e2p_is h, e2p_is h'⟩
theorem e2pn_congr {e f : Ext} : ExtAlike e f → PNielsAlike (e2pn e) (e2pn f)
  | ⟨_, h, h'⟩ => ⟨_, e2pn_is h, e2pn_is h'⟩
theorem e2an_congr {e f : Ext} : ExtAlike e f → ANielsAlike (e2an e) (e2an f)
  | ⟨_, h, h'⟩ => ⟨_, e2an_is h, e2an_is h'⟩
theorem p2e_congr {e f : Proj} : ProjAlike e f → ExtAlike (p2e e) (p2e f)
  | ⟨_, h, h'⟩ => ⟨_, p2e_is h, p2e_is h'⟩
theorem c2p_congr {e f : Compl} : ComplAlike e f → ProjAlike (c2p e) (c2p f)
  | ⟨_, h, h'⟩ => ⟨_, c2p_is h, c2p_is h'⟩
theorem c2e_congr {e f : Compl} : ComplAlike e f → ExtAlike (c2e e) (c2e f)
  | ⟨_, h, h'⟩ => ⟨_, c2e_is h, c2e_is h'⟩
theorem dbl_congr {e f : Proj} : ProjAlike e f → ComplAlike (dbl e) (dbl f)
  | ⟨_, h, h'⟩ => ⟨_, dbl_is h, dbl_is h'⟩
theorem addPN_congr {e f : Ext} {n m : PNiels} : ExtAlike e f → PNielsAlike n m → ComplAlike (addPN e n) (addPN f m)
  | ⟨_, h, h'⟩, ⟨_, k, k'⟩ => ⟨_, addPN_is h k, addPN_is h' k'⟩
theorem addAN_congr {e f : Ext} {n m : ANiels} : ExtAlike e f → ANielsAlike n m → ComplAlike (addAN e n) (addAN f m)
  | ⟨_, h, h'⟩, ⟨_, k, k'⟩ => ⟨_, addAN_is h k, addAN_is h' k'⟩
theorem subPN_congr {e f : Ext} {n m : PNiels} : ExtAlike e f → PNielsAlike n m → ComplAlike (subPN e n) (subPN f m)
  | ⟨_, h, h'⟩, ⟨_, k, k'⟩ => ⟨_, subPN_is h k, subPN_is h' k'⟩
theorem subAN_congr {e f : Ext} {n m : ANiels} : ExtAlike e f → ANielsAlike n m → ComplAlike (subAN e n) (subAN f m)
  | ⟨_, h, h'⟩, ⟨_, k, k'⟩ => ⟨_, subAN_is h k, subAN_is h' k'⟩
theorem eadd_congr {e f e' f' : Ext} : ExtAlike e f → ExtAlike e' f' → ExtAlike (eadd e e') (eadd f f')
  | ⟨_, h, h'⟩, ⟨_, k, k'⟩ => ⟨_, eadd_is h k, eadd_is h' k'⟩
theorem esub_congr {e f e' f' : Ext} : ExtAlike e f → ExtAlike e' f' → ExtAlike (esub e e') (esub f f')
  | ⟨_, h, h'⟩, ⟨_, k, k'⟩ => ⟨_, esub_is h k, esub_is h' k'⟩
theorem edbl_congr {e f : Ext} : ExtAlike e f → ExtAlike (edbl e) (edbl f)
  | ⟨_, h, h'⟩ => ⟨_, edbl_is h, edbl_is h'⟩
theorem mulcof_congr {e f : Ext} : ExtAlike e f → ExtAlike (mulcof e) (mulcof f)
  | ⟨_, h, h'⟩ => ⟨_, mulcof_is h, mulcof_is h'⟩
theorem negExt_congr {e f : Ext} : ExtAlike e f → ExtAlike (negExt e) (negExt f)
  | ⟨_, h, h'⟩ => ⟨_, negExt_is h, negExt_is h'⟩
theorem negPN_congr {e f : PNiels} : PNielsAlike e f → PNielsAlike (negPN e) (negPN f)
  | ⟨_, h, h'⟩ => ⟨_, negPN_is h, negPN_is h'⟩
theorem negAN_congr {e f : ANiels} : ANielsAlike e f → ANielsAlike (negAN e) (negAN f)
  | ⟨_, h, h'⟩ => ⟨_, negAN_is h, negAN_is h'⟩

theorem compress_congr {e f : Ext} : ExtAlike e f → compress e = compress f
  | ⟨_, h, h'⟩ => by
    have hx : FeAlike (affine e).1 (affine f).1 := ⟨_, (affine_is h).1, (affine_is h').1⟩
    have hy : FeAlike (affine e).2 (affine f).2 := ⟨_, (affine_is h).2, (affine_is h').2⟩
    rw [compress, compress, feIsNegative_congr hx, feToBytes_congr hy]

theorem pointEq_congr {e f e' f' : Ext} (h : ExtAlike e f) (h' : ExtAlike e' f') : pointEq e e' = pointEq f f' := by
  rw [pointEq, pointEq, compress_congr h, compress_congr h']

theorem isIdent_congr {e f : Ext} (h : ExtAlike e f) : isIdent e = isIdent f := by
  obtain ⟨hX, hY, hZ, -⟩ := (extAlike_iff e f).1 h
  rw [isIdent, isIdent, feIsZero_congr hX, feCtEq_congr hY hZ]

theorem isSmall_congr {e f : Ext} (h : ExtAlike e f) : isSmall e = isSmall f := isIdent_congr (mulcof_congr h)

/-! ### Tables -/

/-- Tables whose entries have one value each. -/
abbrev TableAlike : List PNiels → List PNiels → Prop := List.Forall₂ PNielsAlike

theorem tableFrom_congr {q q' : Ext} {t t' : PNiels} (hq : ExtAlike q q') (ht : PNielsAlike t t') (n : Nat) :
    TableAlike (tableFrom q t n) (tableFrom q' t' n) := by
  induction n generalizing t t' with
  | zero => exact .nil
  | succ n ih =>
    have h := e2pn_congr (c2e_congr (addPN_congr hq ht))
    rw [tableFrom, tableFrom, strictPN_eq, strictPN_eq]
    exact .cons h (ih h)

theorem lutBuild_congr {e f : Ext} (h : ExtAlike e f) : TableAlike (lutBuild e) (lutBuild f) := by
  have ht := e2pn_congr h
  rw [lutBuild, lutBuild, strictPN_eq, strictPN_eq]
  exact .cons ht (tableFrom_congr h ht 7)

theorem naf5Build_congr {e f : Ext} (h : ExtAlike e f) : TableAlike (naf5Build e) (naf5Build f) := by
  have ht := e2pn_congr h
  rw [naf5Build, naf5Build, strictExt_eq, strictExt_eq, strictPN_eq, strictPN_eq]
  exact .cons ht (tableFrom_congr (edbl_congr h) ht 7)

theorem pnielsIdentity_alike : PNielsAlike pnielsIdentity pnielsIdentity :=
  (pnielsAlike_iff _ _).2 ⟨feOne_alike, feOne_alike, feOne_alike, feZero_alike⟩

theorem extIdentity_alike : ExtAlike extIdentity extIdentity :=
  (extAlike_iff _ _).2 ⟨feZero_alike, feOne_alike, feOne_alike, feZero_alike⟩

theorem projIdentity_alike : ProjAlike projIdentity projIdentity :=
  (projAlike_iff _ _).2 ⟨feZero_alike, feOne_alike, feOne_alike⟩

theorem lutScan_congr (x : BitVec 16) {t t' : List PNiels} (ht : TableAlike t t') (j : Nat) {r r' : PNiels}
    (hr : PNielsAlike r r') : PNielsAlike (lutScan x t j r) (lutScan x t' j r') := by
  induction ht generalizing j r r' with
  | nil => exact hr
  | cons h _ ih =>
    rw [lutScan, lutScan, strictPN_eq, strictPN_eq, selPN_eq, selPN_eq]
    exact ih (j + 1) (h.ite hr _)

theorem lutSelect_congr {t t' : List PNiels} (ht : TableAlike t t') (x : Byte) :
    PNielsAlike (lutSelect t x) (lutSelect t' x) := by
  have h := lutScan_congr (absDigit x) ht 1 pnielsIdentity_alike
  rw [lutSelect, lutSelect, cnegPN_eq, cnegPN_eq]
  exact (negPN_congr h).ite h _

theorem table_getD_congr {t t' : List PNiels} (ht : TableAlike t t') (k : Nat) :
    PNielsAlike (t.getD k pnielsIdentity) (t'.getD k pnielsIdentity) := by
  induction ht generalizing k with
  | nil => exact pnielsIdentity_alike
  | cons h _ ih =>
    cases k with
    | zero => exact h
    | succ k => exact ih k

/-- An entry of the basepoint table is `anielsOf` of three integers. -/
theorem anielsOf_alike (a b c : Nat) : ANielsAlike (anielsOf a b c) (anielsOf a b c) :=
  have h (v : Nat) : FeAlike (Fe.ofValue v) (Fe.ofValue v) := .refl ((Fe.ofValue_below v).mono (by decide))
  (anielsAlike_iff _ _).2 ⟨h a, h b, h c⟩

/-- Every entry of the basepoint table has loose limbs. -/
theorem baseTable_alike : ∀ n ∈ baseTable, ANielsAlike n n := by
  simp [baseTable, baseTable0, baseTable1, baseTable2, baseTable3, baseTable4, baseTable5, baseTable6, baseTable7,
    anielsOf_alike]

theorem baseTable_getD_alike (k : Nat) :
    ANielsAlike (baseTable.getD k anielsIdentity) (baseTable.getD k anielsIdentity) := by
  rcases lt_or_ge k baseTable.length with h | h
  · rw [List.getD_eq_getElem _ _ h]
    exact baseTable_alike _ (List.getElem_mem h)
  · rw [List.getD_eq_default _ _ h]
    exact (anielsAlike_iff _ _).2 ⟨feOne_alike, feOne_alike, feZero_alike⟩

/-! ### Multipliers -/

theorem dbl4_congr {a b : Compl} (h : ComplAlike a b) : ComplAlike (dbl4 a) (dbl4 b) := by
  simp only [dbl4, strictCompl_eq]
  exact dbl_congr (c2p_congr (dbl_congr (c2p_congr (dbl_congr (c2p_congr (dbl_congr (c2p_congr h)))))))

theorem smulLoop_congr {t t' : List PNiels} (ht : TableAlike t t') (e : List Int) (i : Nat) {a b : Compl}
    (h : ComplAlike a b) : ComplAlike (smulLoop t e i a) (smulLoop t' e i b) := by
  induction i generalizing a b with
  | zero => exact h
  | succ i ih =>
    simp only [smulLoop, strictCompl_eq]
    exact ih (addPN_congr (c2e_congr (dbl4_congr h)) (lutSelect_congr ht _))

/-- PT_SMUL (44_scalarmul_msm.md R325). -/
theorem smul_congr {q q' : Ext} (h : ExtAlike q q') (n : Nat) : ExtAlike (smul q n) (smul q' n) := by
  have ht := lutBuild_congr h
  simp only [smul, strictCompl_eq]
  exact c2e_congr (smulLoop_congr ht _ 63 (addPN_congr extIdentity_alike (lutSelect_congr ht _)))

theorem applyPN_congr {t t' : List PNiels} (ht : TableAlike t t') (x : Int) {a b : Compl} (h : ComplAlike a b) :
    ComplAlike (applyPN t x a) (applyPN t' x b) :=
  (addPN_congr (c2e_congr h) (table_getD_congr ht _)).ite
    ((subPN_congr (c2e_congr h) (table_getD_congr ht _)).ite h _) _

theorem applyAN_congr (x : Int) {a b : Compl} (h : ComplAlike a b) :
    ComplAlike (applyAN baseTable x a) (applyAN baseTable x b) :=
  (addAN_congr (c2e_congr h) (baseTable_getD_alike _)).ite
    ((subAN_congr (c2e_congr h) (baseTable_getD_alike _)).ite h _) _

theorem dsmbStep_congr (an bn : List Int) {t t' : List PNiels} (ht : TableAlike t t') (i : Nat) {r r' : Proj}
    (h : ProjAlike r r') : ProjAlike (dsmbStep an bn t i r) (dsmbStep an bn t' i r') := by
  simp only [dsmbStep, strictCompl_eq]
  exact c2p_congr (applyAN_congr _ (applyPN_congr ht _ (dbl_congr h)))

theorem dsmbLoop_congr (an bn : List Int) {t t' : List PNiels} (ht : TableAlike t t') (i : Nat) {r r' : Proj}
    (h : ProjAlike r r') : ProjAlike (dsmbLoop an bn t i r) (dsmbLoop an bn t' i r') := by
  induction i generalizing r r' with
  | zero => exact dsmbStep_congr an bn ht 0 h
  | succ i ih =>
    rw [dsmbLoop, dsmbLoop, strictProj_eq, strictProj_eq]
    exact ih (dsmbStep_congr an bn ht (i + 1) h)

/-- PT_DSMB (44_scalarmul_msm.md R329). -/
theorem dsmb_congr (a : Nat) {q q' : Ext} (h : ExtAlike q q') (b : Nat) : ExtAlike (dsmb a q b) (dsmb a q' b) :=
  p2e_congr (dsmbLoop_congr _ _ (naf5Build_congr h) _ projIdentity_alike)

/-- Pairs of one scalar whose points have one value. -/
def PairAlike (m m' : MsmPair) : Prop := m.scalar = m'.scalar ∧ ExtAlike m.point m'.point

/-- Prepared pairs of one recoding whose tables have one value. -/
def PreparedAlike (a b : List Int × List PNiels) : Prop := a.1 = b.1 ∧ TableAlike a.2 b.2

theorem msmPrepare_congr {m m' : MsmPair} (h : PairAlike m m') : PreparedAlike (msmPrepare m) (msmPrepare m') :=
  ⟨by rw [msmPrepare, msmPrepare, h.1], naf5Build_congr h.2⟩

theorem msmApply_congr (i : Nat) {prs prs' : List (List Int × List PNiels)} (hp : List.Forall₂ PreparedAlike prs prs')
    {a b : Compl} (h : ComplAlike a b) : ComplAlike (msmApply i prs a) (msmApply i prs' b) := by
  induction hp generalizing a b with
  | nil => exact h
  | cons hpr _ ih =>
    rw [msmApply, msmApply, strictCompl_eq, strictCompl_eq, hpr.1]
    exact ih (applyPN_congr hpr.2 _ h)

theorem msmLoop_congr {prs prs' : List (List Int × List PNiels)} (hp : List.Forall₂ PreparedAlike prs prs') (i : Nat)
    {r r' : Proj} (h : ProjAlike r r') : ProjAlike (msmLoop prs i r) (msmLoop prs' i r') := by
  induction i generalizing r r' with
  | zero => exact h
  | succ i ih =>
    simp only [msmLoop, strictCompl_eq, strictProj_eq]
    exact ih (c2p_congr (msmApply_congr i hp (dbl_congr h)))

/-- MSM_RUN (44_scalarmul_msm.md R333). -/
theorem msmSum_congr {l l' : List MsmPair} (h : List.Forall₂ PairAlike l l') : ExtAlike (msmSum l) (msmSum l') := by
  have hp : List.Forall₂ PreparedAlike (l.map msmPrepare) (l'.map msmPrepare) := by
    rw [List.forall₂_map_left_iff, List.forall₂_map_right_iff]
    exact h.imp fun _ _ => msmPrepare_congr
  exact p2e_congr (msmLoop_congr hp 256 projIdentity_alike)

end Sys2Proof.Machine

/-! SUPPORT. States that differ in limb vectors of one value: every command makes writes that differ so, and every step
leads to states that differ so (10_state.md R33). -/
namespace Sys2Proof.Machine

/-! ### Contents of point registers -/

/-- Point contents of one tag and one value. -/
def PointAlike : Point → Point → Prop
  | .ext e, .ext f => ExtAlike e f
  | .proj e, .proj f => ProjAlike e f
  | .compl e, .compl f => ComplAlike e f
  | .pniels e, .pniels f => PNielsAlike e f
  | .aniels e, .aniels f => ANielsAlike e f
  | _, _ => False

theorem feAlike_of_canon {x y : Fe} (hx : x.Below 54) (hy : y.Below 54) (h : x.canon = y.canon) : FeAlike x y :=
  (feAlike_iff x y).2 ⟨hx, hy, h⟩

theorem FeAlike.canon_eq {x y : Fe} (h : FeAlike x y) : x.canon = y.canon := ((feAlike_iff x y).1 h).2.2

theorem pointAlike_of_canon {q r : Point} (hq : q.Below 54) (hr : r.Below 54) (h : q.canon = r.canon) :
    PointAlike q r := by
  cases q with
  | ext e =>
    cases r with
    | ext f =>
      simp only [Point.canon, Point.ext.injEq, Ext.mk.injEq] at h
      obtain ⟨⟨x, y, z, t⟩, ⟨x', y', z', t'⟩, ex, ey, ez, et⟩ := And.intro hq (And.intro hr h)
      exact (extAlike_iff _ _).2 ⟨feAlike_of_canon x x' ex, feAlike_of_canon y y' ey, feAlike_of_canon z z' ez,
        feAlike_of_canon t t' et⟩
    | _ => cases h
  | proj e =>
    cases r with
    | proj f =>
      simp only [Point.canon, Point.proj.injEq, Proj.mk.injEq] at h
      obtain ⟨⟨x, y, z⟩, ⟨x', y', z'⟩, ex, ey, ez⟩ := And.intro hq (And.intro hr h)
      exact (projAlike_iff _ _).2 ⟨feAlike_of_canon x x' ex, feAlike_of_canon y y' ey, feAlike_of_canon z z' ez⟩
    | _ => cases h
  | compl e =>
    cases r with
    | compl f =>
      simp only [Point.canon, Point.compl.injEq, Compl.mk.injEq] at h
      obtain ⟨⟨x, y, z, t⟩, ⟨x', y', z', t'⟩, ex, ey, ez, et⟩ := And.intro hq (And.intro hr h)
      exact (complAlike_iff _ _).2 ⟨feAlike_of_canon x x' ex, feAlike_of_canon y y' ey, feAlike_of_canon z z' ez,
        feAlike_of_canon t t' et⟩
    | _ => cases h
  | pniels e =>
    cases r with
    | pniels f =>
      simp only [Point.canon, Point.pniels.injEq, PNiels.mk.injEq] at h
      obtain ⟨⟨x, y, z, t⟩, ⟨x', y', z', t'⟩, ex, ey, ez, et⟩ := And.intro hq (And.intro hr h)
      exact (pnielsAlike_iff _ _).2 ⟨feAlike_of_canon x x' ex, feAlike_of_canon y y' ey, feAlike_of_canon z z' ez,
        feAlike_of_canon t t' et⟩
    | _ => cases h
  | aniels e =>
    cases r with
    | aniels f =>
      simp only [Point.canon, Point.aniels.injEq, ANiels.mk.injEq] at h
      obtain ⟨⟨x, y, z⟩, ⟨x', y', z'⟩, ex, ey, ez⟩ := And.intro hq (And.intro hr h)
      exact (anielsAlike_iff _ _).2 ⟨feAlike_of_canon x x' ex, feAlike_of_canon y y' ey, feAlike_of_canon z z' ez⟩
    | _ => cases h

theorem ExtAlike.canon_eq {e f : Ext} (h : ExtAlike e f) : (Point.ext e).canon = (Point.ext f).canon := by
  obtain ⟨x, y, z, t⟩ := (extAlike_iff e f).1 h
  simp only [Point.canon, FeAlike.canon_eq x, FeAlike.canon_eq y, FeAlike.canon_eq z, FeAlike.canon_eq t]

theorem PointAlike.canon_eq {q r : Point} (h : PointAlike q r) : q.canon = r.canon := by
  unfold PointAlike at h
  split at h
  · exact ExtAlike.canon_eq h
  · obtain ⟨x, y, z⟩ := (projAlike_iff _ _).1 h
    simp only [Point.canon, FeAlike.canon_eq x, FeAlike.canon_eq y, FeAlike.canon_eq z]
  · obtain ⟨x, y, z, t⟩ := (complAlike_iff _ _).1 h
    simp only [Point.canon, FeAlike.canon_eq x, FeAlike.canon_eq y, FeAlike.canon_eq z, FeAlike.canon_eq t]
  · obtain ⟨x, y, z, t⟩ := (pnielsAlike_iff _ _).1 h
    simp only [Point.canon, FeAlike.canon_eq x, FeAlike.canon_eq y, FeAlike.canon_eq z, FeAlike.canon_eq t]
  · obtain ⟨x, y, z⟩ := (anielsAlike_iff _ _).1 h
    simp only [Point.canon, FeAlike.canon_eq x, FeAlike.canon_eq y, FeAlike.canon_eq z]
  · exact h.elim

/-- A pair's canonical form is its scalar with its point's. -/
theorem PairAlike.canon_eq {m m' : MsmPair} (h : PairAlike m m') : m.canon = m'.canon := by
  obtain ⟨x, y, z, t⟩ := (extAlike_iff _ _).1 h.2
  simp only [MsmPair.canon, h.1, FeAlike.canon_eq x, FeAlike.canon_eq y, FeAlike.canon_eq z, FeAlike.canon_eq t]

theorem pairAlike_of_canon {m m' : MsmPair} (hm : m.point.Below 54) (hm' : m'.point.Below 54)
    (h : m.canon = m'.canon) : PairAlike m m' := by
  simp only [MsmPair.canon, MsmPair.mk.injEq, Ext.mk.injEq] at h
  exact ⟨h.1, pointAlike_of_canon (q := .ext m.point) (r := .ext m'.point) hm hm' (by simp only [Point.canon, h.2])⟩

theorem pairsAlike_of_canon {l l' : List MsmPair} (hl : ∀ m ∈ l, m.point.Below 54) (hl' : ∀ m ∈ l', m.point.Below 54)
    (h : l.map MsmPair.canon = l'.map MsmPair.canon) : List.Forall₂ PairAlike l l' := by
  induction l generalizing l' with
  | nil => rw [List.map_nil, eq_comm, List.map_eq_nil_iff] at h; rw [h]; exact .nil
  | cons m l ih =>
    cases l' with
    | nil => cases h
    | cons m' l' =>
      rw [List.map_cons, List.map_cons, List.cons.injEq] at h
      rw [List.forall_mem_cons] at hl hl'
      exact .cons (pairAlike_of_canon hl.1 hl'.1 h.1) (ih hl.2 hl'.2 h.2)

/-! ### Computations alike -/

/-- Two computations fault alike, or answer values in a relation. -/
inductive Agree {α β : Type} (R : α → β → Prop) : Except FaultCode α → Except FaultCode β → Prop
  | ok {a : α} {b : β} (h : R a b) : Agree R (.ok a) (.ok b)
  | error (k : FaultCode) : Agree R (.error k) (.error k)

theorem Agree.bind {α β γ δ : Type} {R : α → β → Prop} {Q : γ → δ → Prop} {x : Except FaultCode α}
    {y : Except FaultCode β} {f : α → Except FaultCode γ} {g : β → Except FaultCode δ} (h : Agree R x y)
    (hf : ∀ a b, R a b → Agree Q (f a) (g b)) : Agree Q (x >>= f) (y >>= g) := by
  cases h with
  | ok h => exact hf _ _ h
  | error k => exact .error k

theorem Agree.refl {α : Type} {R : α → α → Prop} (h : ∀ a, R a a) (x : Except FaultCode α) : Agree R x x := by
  cases x with
  | ok a => exact .ok (h a)
  | error k => exact .error k

theorem asExt_congr {q r : Point} (h : PointAlike q r) : Agree ExtAlike q.asExt r.asExt := by
  unfold PointAlike at h
  split at h
  · exact .ok h
  · exact .error _
  · exact .error _
  · exact .error _
  · exact .error _
  · exact h.elim

theorem asProj_congr {q r : Point} (h : PointAlike q r) : Agree ProjAlike q.asProj r.asProj := by
  unfold PointAlike at h
  split at h
  · exact .error _
  · exact .ok h
  · exact .error _
  · exact .error _
  · exact .error _
  · exact h.elim

theorem asCompl_congr {q r : Point} (h : PointAlike q r) : Agree ComplAlike q.asCompl r.asCompl := by
  unfold PointAlike at h
  split at h
  · exact .error _
  · exact .error _
  · exact .ok h
  · exact .error _
  · exact .error _
  · exact h.elim

theorem addTo_congr {q r : Point} (h : PointAlike q r) {e f : Ext} (he : ExtAlike e f) :
    Agree ComplAlike (q.addTo e) (r.addTo f) := by
  unfold PointAlike at h
  split at h
  · exact .error _
  · exact .error _
  · exact .error _
  · exact .ok (addPN_congr he h)
  · exact .ok (addAN_congr he h)
  · exact h.elim

theorem subFrom_congr {q r : Point} (h : PointAlike q r) {e f : Ext} (he : ExtAlike e f) :
    Agree ComplAlike (q.subFrom e) (r.subFrom f) := by
  unfold PointAlike at h
  split at h
  · exact .error _
  · exact .error _
  · exact .error _
  · exact .ok (subPN_congr he h)
  · exact .ok (subAN_congr he h)
  · exact h.elim

theorem negate_congr {q r : Point} (h : PointAlike q r) : Agree PointAlike q.negate r.negate := by
  unfold PointAlike at h
  split at h
  · exact .ok (negExt_congr h)
  · exact .error _
  · exact .error _
  · exact .ok (negPN_congr h)
  · exact .ok (negAN_congr h)
  · exact h.elim

/-- The select of contents, by their tags. -/
theorem select_eq (q r : Point) (c : Bool) :
    q.select r c = if q.tag = r.tag ∧ q.tag ∈ [Tag.ext, .pniels, .aniels] then .ok (if c then r else q)
      else .error .wrongType := by
  cases q <;> cases r <;>
    simp [Point.select, Point.tag, selExt_eq, selPN_eq, selAN_eq, apply_ite Point.ext, apply_ite Point.pniels,
      apply_ite Point.aniels]

theorem PointAlike.tag_eq {q r : Point} (h : PointAlike q r) : q.tag = r.tag := by
  unfold PointAlike at h
  split at h
  · rfl
  · rfl
  · rfl
  · rfl
  · rfl
  · exact h.elim

theorem select_congr {q q' r r' : Point} (hq : PointAlike q q') (hr : PointAlike r r') (c : Bool) :
    Agree PointAlike (q.select r c) (q'.select r' c) := by
  rw [select_eq, select_eq, hq.tag_eq, hr.tag_eq]
  split
  · cases c
    · exact .ok hq
    · exact .ok hr
  · exact .error _

theorem condNegate_eq (q : Point) (c : Bool) : q.condNegate c = q.negate >>= fun n => q.select n c := by
  unfold Point.condNegate
  cases q.negate <;> rfl

theorem condNegate_congr {q r : Point} (h : PointAlike q r) (c : Bool) :
    Agree PointAlike (q.condNegate c) (r.condNegate c) := by
  rw [condNegate_eq, condNegate_eq]
  exact (negate_congr h).bind fun _ _ hn => select_congr h hn c

/-! ### States alike -/

/-- Two states with loose limbs that differ in limb vectors of one value only (10_state.md R33). -/
structure StateAlike (s s' : State) : Prop where
  left : s.LimbsBelow 54
  right : s'.LimbsBelow 54
  canon : s.canon = s'.canon

/-- Canonical limbs, register by register. -/
theorem getD_map_option {α β : Type} (f : α → β) (l : List (Option α)) (n : Nat) :
    (l.map (Option.map f)).getD n none = (l.getD n none).map f := by
  simp only [List.getD_eq_getElem?_getD, List.getElem?_map]
  cases l[n]? <;> rfl

namespace StateAlike
variable {s s' : State} (h : StateAlike s s')
include h

theorem params : s.params = s'.params := (congrArg State.params h.canon :)
theorem scalars : s.S = s'.S := (congrArg State.S h.canon :)
theorem choices : s.C = s'.C := (congrArg State.C h.canon :)
theorem digits : s.DG = s'.DG := (congrArg State.DG h.canon :)
theorem oram : s.oram = s'.oram := (congrArg State.oram h.canon :)
theorem fault : s.fault = s'.fault := (congrArg State.fault h.canon :)
theorem resetIn : s.resetIn = s'.resetIn := (congrArg State.resetIn h.canon :)
theorem bus : s.bus = s'.bus := (congrArg State.bus h.canon :)

theorem pairs : List.Forall₂ PairAlike s.msm s'.msm :=
  pairsAlike_of_canon h.left.2.2 h.right.2.2 (congrArg State.msm h.canon)

theorem readSlots (slot : Imm) (n : Nat) : s.readSlots slot n = s'.readSlots slot n := by
  rw [State.readSlots, State.readSlots, h.oram]

theorem srcF (n : RegNo) : Agree FeAlike (s.srcF n) (s'.srcF n) := by
  have hr : (s.readF n).map Fe.canon = (s'.readF n).map Fe.canon := by
    have e := congrArg (fun u : State => u.F.getD n.toNat none) h.canon
    simpa only [State.canon, getD_map_option, State.readF] using e
  unfold State.srcF
  cases hx : s.readF n with
  | none =>
    rw [hx, Option.map_none, eq_comm, Option.map_eq_none_iff] at hr
    rw [hr]
    exact .error _
  | some x =>
    rw [hx, Option.map_some, eq_comm, Option.map_eq_some_iff] at hr
    obtain ⟨y, hy, e⟩ := hr
    rw [hy]
    exact .ok (feAlike_of_canon (h.left.readF hx) (h.right.readF hy) e.symm)

theorem srcP (n : RegNo) : Agree PointAlike (s.srcP n) (s'.srcP n) := by
  have hr : (s.readP n).map Point.canon = (s'.readP n).map Point.canon := by
    have e := congrArg (fun u : State => u.P.getD n.toNat none) h.canon
    simpa only [State.canon, getD_map_option, State.readP] using e
  unfold State.srcP
  cases hq : s.readP n with
  | none =>
    rw [hq, Option.map_none, eq_comm, Option.map_eq_none_iff] at hr
    rw [hr]
    exact .error _
  | some q =>
    rw [hq, Option.map_some, eq_comm, Option.map_eq_some_iff] at hr
    obtain ⟨r, hr, e⟩ := hr
    rw [hr]
    exact .ok (pointAlike_of_canon (h.left.readP hq) (h.right.readP hr) e.symm)

theorem srcS (n : RegNo) : Agree Eq (s.srcS n) (s'.srcS n) := by
  rw [State.srcS, State.srcS, State.readS, State.readS, h.scalars]
  exact Agree.refl (fun _ => rfl) _

theorem srcC (n : RegNo) : Agree Eq (s.srcC n) (s'.srcC n) := by
  rw [State.srcC, State.srcC, State.readC, State.readC, h.choices]
  exact Agree.refl (fun _ => rfl) _

theorem srcDG (n : RegNo) : Agree Eq (s.srcDG n) (s'.srcDG n) := by
  rw [State.srcDG, State.srcDG, State.readDG, State.readDG, h.digits]
  exact Agree.refl (fun _ => rfl) _

end StateAlike

end Sys2Proof.Machine

namespace Sys2Proof.Machine

/-! ### Writes alike -/

/-- A write with canonical limbs. -/
def Write.canon : Write → Write
  | .f n v => .f n v.canon
  | .p n q => .p n (q.map Point.canon)
  | .msm l => .msm (l.map MsmPair.canon)
  | w => w

/-- Lists of writes that differ in limb vectors of one value only. -/
def WritesAlike (ws ws' : List Write) : Prop := ws.map Write.canon = ws'.map Write.canon

theorem State.apply_canon (s : State) (w : Write) : (s.apply w).canon = s.canon.apply w.canon := by
  cases w with
  | f n v => exact congrArg (fun l => { s.canon with F := l }) List.map_set
  | p n q => exact congrArg (fun l => { s.canon with P := l }) List.map_set
  | s | c | dg | slots | msm => rfl

theorem State.applyAll_canon (s : State) (ws : List Write) :
    (s.applyAll ws).canon = s.canon.applyAll (ws.map Write.canon) := by
  induction ws generalizing s with
  | nil => rfl
  | cons w ws ih => rw [State.applyAll_cons, ih, State.apply_canon, List.map_cons, State.applyAll_cons]

theorem WritesAlike.f {x y : Fe} (d : RegNo) (h : FeAlike x y) : WritesAlike [.f d x] [.f d y] := by
  simp only [WritesAlike, List.map, Write.canon, h.canon_eq]

theorem WritesAlike.p {q r : Point} (d : RegNo) (h : PointAlike q r) : WritesAlike [.p d (some q)] [.p d (some r)] := by
  simp only [WritesAlike, List.map, Write.canon, Option.map, h.canon_eq]

theorem WritesAlike.append {u u' v v' : List Write} (h : WritesAlike u u') (h' : WritesAlike v v') :
    WritesAlike (u ++ v) (u' ++ v') := by
  rw [WritesAlike, List.map_append, List.map_append, h, h']

theorem WritesAlike.of_eq {ws ws' : List Write} (h : ws = ws') : WritesAlike ws ws' := congrArg _ h

/-! A command's result depends on its sources' values alone, whatever the shape of its sources. -/

section
variable {s s' : State} (h : StateAlike s s')
include h

theorem agree_withF {a : RegNo} {k : Fe → List Write} (hk : ∀ x y, FeAlike x y → WritesAlike (k x) (k y)) :
    Agree WritesAlike (withF s a k) (withF s' a k) :=
  (h.srcF a).bind fun x y e => .ok (hk x y e)

theorem agree_withFF {a b : RegNo} {k : Fe → Fe → List Write}
    (hk : ∀ x y x' y', FeAlike x y → FeAlike x' y' → WritesAlike (k x x') (k y y')) :
    Agree WritesAlike (withFF s a b k) (withFF s' a b k) :=
  (h.srcF a).bind fun x y e => (h.srcF b).bind fun x' y' e' => .ok (hk x y x' y' e e')

theorem agree_withS {a : RegNo} {k : Scalar → List Write} : Agree WritesAlike (withS s a k) (withS s' a k) :=
  (h.srcS a).bind fun _ _ e => .ok (.of_eq (congrArg k e))

theorem agree_withSS {a b : RegNo} {k : Scalar → Scalar → List Write} :
    Agree WritesAlike (withSS s a b k) (withSS s' a b k) :=
  (h.srcS a).bind fun _ _ e => (h.srcS b).bind fun _ _ e' => .ok (.of_eq (congrArg₂ k e e'))

theorem agree_withCC {a b : RegNo} {k : Bool → Bool → List Write} :
    Agree WritesAlike (withCC s a b k) (withCC s' a b k) :=
  (h.srcC a).bind fun _ _ e => (h.srcC b).bind fun _ _ e' => .ok (.of_eq (congrArg₂ k e e'))

theorem agree_withExt {a : RegNo} {k : Ext → List Write} (hk : ∀ e f, ExtAlike e f → WritesAlike (k e) (k f)) :
    Agree WritesAlike (withExt s a k) (withExt s' a k) :=
  (h.srcP a).bind fun _ _ hq => (asExt_congr hq).bind fun e f he => .ok (hk e f he)

theorem agree_withExtExt {a b : RegNo} {k : Ext → Ext → List Write}
    (hk : ∀ e f e' f', ExtAlike e f → ExtAlike e' f' → WritesAlike (k e e') (k f f')) :
    Agree WritesAlike (withExtExt s a b k) (withExtExt s' a b k) :=
  (h.srcP a).bind fun _ _ hq => (h.srcP b).bind fun _ _ hr => (asExt_congr hq).bind fun e f he =>
    (asExt_congr hr).bind fun e' f' he' => .ok (hk e f e' f' he he')

theorem agree_withProj {a : RegNo} {k : Proj → List Write} (hk : ∀ e f, ProjAlike e f → WritesAlike (k e) (k f)) :
    Agree WritesAlike (withProj s a k) (withProj s' a k) :=
  (h.srcP a).bind fun _ _ hq => (asProj_congr hq).bind fun e f he => .ok (hk e f he)

theorem agree_withCompl {a : RegNo} {k : Compl → List Write} (hk : ∀ e f, ComplAlike e f → WritesAlike (k e) (k f)) :
    Agree WritesAlike (withCompl s a k) (withCompl s' a k) :=
  (h.srcP a).bind fun _ _ hq => (asCompl_congr hq).bind fun e f he => .ok (hk e f he)

/-- Every command makes the same writes but for limb vectors of one value, or the same fault. -/
theorem writes_congr (i : Instr) : Agree WritesAlike (writes i s) (writes i s') := by
  cases i with
  | nop | chSet | feConst | ptIdent | ptBase | msmClr => exact .ok rfl
  | chNot => exact (h.srcC _).bind fun _ _ e => .ok (e ▸ rfl)
  | chAnd | chOr | chXor => exact agree_withCC h
  | feLd d imm => exact .ok (.of_eq (by rw [h.readSlots]))
  | feSt => exact agree_withF h fun _ _ e => .of_eq (by rw [feToBytes_congr e])
  | feMov => exact agree_withF h fun _ _ e => .f _ e
  | feAdd => exact agree_withFF h fun _ _ _ _ e e' => .f _ (feAdd_congr e e')
  | feSub => exact agree_withFF h fun _ _ _ _ e e' => .f _ (feSub_congr e e')
  | feNeg => exact agree_withF h fun _ _ e => .f _ (feNeg_congr e)
  | feMul => exact agree_withFF h fun _ _ _ _ e e' => .f _ (feMul_congr e e')
  | feSq => exact agree_withF h fun _ _ e => .f _ (feSq_congr e)
  | feSq2 => exact agree_withF h fun _ _ e => .f _ (feSq2_congr e)
  | fePow2k => exact agree_withF h fun _ _ e => .f _ (fePow2k_congr _ e)
  | feInv => exact agree_withF h fun _ _ e => .f _ (feInvert_congr e)
  | fePowp58 => exact agree_withF h fun _ _ e => .f _ (fePowP58_congr e)
  | fePow22501 =>
    exact agree_withF h fun _ _ e => .append (.f _ (fePow22501_congr e).1) (.f _ (fePow22501_congr e).2)
  | feSqrtri =>
    exact agree_withFF h fun _ _ _ _ e e' =>
      .append (.f _ (feSqrtRatio_congr e e').2) (.of_eq (by rw [(feSqrtRatio_congr e e').1]))
  | feRed => exact agree_withF h fun _ _ e => .of_eq (by rw [feToBytes_congr e])
  | feCsel =>
    exact (h.srcF _).bind fun _ _ hx => (h.srcF _).bind fun _ _ hy => (h.srcC _).bind fun k _ hk =>
      .ok (hk ▸ .f _ (feSelect_congr hx hy k))
  | feCneg =>
    exact (h.srcC _).bind fun k _ hk => (h.srcF _).bind fun _ _ hx => .ok (hk ▸ .f _ (feCneg_congr hx k))
  | feCassign =>
    exact (h.srcF _).bind fun _ _ hy => (h.srcC _).bind fun k _ hk => (h.srcF _).bind fun _ _ hx =>
      .ok (hk ▸ .f _ (feSelect_congr hx hy k))
  | feEq => exact agree_withFF h fun _ _ _ _ e e' => .of_eq (by rw [feCtEq_congr e e'])
  | feIsneg => exact agree_withF h fun _ _ e => .of_eq (by rw [feIsNegative_congr e])
  | feIszero => exact agree_withF h fun _ _ e => .of_eq (by rw [feIsZero_congr e])
  | scLd d imm => exact .ok (.of_eq (by rw [h.readSlots]))
  | scLdw d imm => exact .ok (.of_eq (by rw [h.readSlots]))
  | scSt | scMov | scNeg | scRed | scIscanon | scTomont | scFrommont | scRadix16 | scRadix2w | scNaf =>
    exact agree_withS h
  | scAdd | scSub | scMul | scMmul => exact agree_withSS h
  | dgSt => exact (h.srcDG _).bind fun _ _ e => .ok (e ▸ rfl)
  | ptMov => exact (h.srcP _).bind fun _ _ e => .ok (.p _ e)
  | ptDecomp d a imm => exact .ok (.of_eq (by rw [h.readSlots, h.params]))
  | ptComp => exact agree_withExt h fun _ _ e => .of_eq (by rw [compress_congr e])
  | ptE2p => exact agree_withExt h fun _ _ e => .p _ (e2p_congr e)
  | ptE2pn => exact agree_withExt h fun _ _ e => .p _ (e2pn_congr e)
  | ptE2an => exact agree_withExt h fun _ _ e => .p _ (e2an_congr e)
  | ptP2e => exact agree_withProj h fun _ _ e => .p _ (p2e_congr e)
  | ptC2p => exact agree_withCompl h fun _ _ e => .p _ (c2p_congr e)
  | ptC2e => exact agree_withCompl h fun _ _ e => .p _ (c2e_congr e)
  | ptDbl => exact agree_withProj h fun _ _ e => .p _ (dbl_congr e)
  | ptAdd =>
    exact (h.srcP _).bind fun _ _ hq => (h.srcP _).bind fun _ _ hr => (asExt_congr hq).bind fun _ _ he =>
      (addTo_congr hr he).bind fun _ _ ht => .ok (.p _ ht)
  | ptSub =>
    exact (h.srcP _).bind fun _ _ hq => (h.srcP _).bind fun _ _ hr => (asExt_congr hq).bind fun _ _ he =>
      (subFrom_congr hr he).bind fun _ _ ht => .ok (.p _ ht)
  | ptNeg => exact (h.srcP _).bind fun _ _ hq => (negate_congr hq).bind fun _ _ ht => .ok (.p _ ht)
  | ptCsel =>
    exact (h.srcP _).bind fun _ _ hq => (h.srcP _).bind fun _ _ hr => (h.srcC _).bind fun k _ hk =>
      hk ▸ (select_congr hq hr k).bind fun _ _ ht => .ok (.p _ ht)
  | ptCneg =>
    exact (h.srcC _).bind fun k _ hk => (h.srcP _).bind fun _ _ hq =>
      hk ▸ (condNegate_congr hq k).bind fun _ _ ht => .ok (.p _ ht)
  | ptCassign =>
    exact (h.srcP _).bind fun _ _ hr => (h.srcC _).bind fun k _ hk => (h.srcP _).bind fun _ _ hq =>
      hk ▸ (select_congr hq hr k).bind fun _ _ ht => .ok (.p _ ht)
  | ptEq => exact agree_withExtExt h fun _ _ _ _ e e' => .of_eq (by rw [pointEq_congr e e'])
  | ptIssmall => exact agree_withExt h fun _ _ e => .of_eq (by rw [isSmall_congr e])
  | ptIsident => exact agree_withExt h fun _ _ e => .of_eq (by rw [isIdent_congr e])
  | ptMulcof => exact agree_withExt h fun _ _ e => .p _ (mulcof_congr e)
  | ptEadd => exact agree_withExtExt h fun _ _ _ _ e e' => .p _ (eadd_congr e e')
  | ptEsub => exact agree_withExtExt h fun _ _ _ _ e e' => .p _ (esub_congr e e')
  | ptEdbl => exact agree_withExt h fun _ _ e => .p _ (edbl_congr e)
  | ptSmul =>
    exact (h.srcP _).bind fun _ _ hq => (h.srcS _).bind fun n _ hn => (asExt_congr hq).bind fun _ _ he =>
      .ok (hn ▸ .p _ (smul_congr he n.toNat))
  | ptDsmb =>
    exact (h.srcS _).bind fun m _ hm => (h.srcP _).bind fun _ _ hq => (h.srcS _).bind fun n _ hn =>
      (asExt_congr hq).bind fun _ _ he => .ok (hm ▸ hn ▸ .p _ (dsmb_congr m.toNat he n.toNat))
  | msmPush =>
    refine (h.srcS _).bind fun n _ hn => (h.srcP _).bind fun _ _ hq => (asExt_congr hq).bind fun e f he => ?_
    subst hn
    have hl : s.msm.map MsmPair.canon = s'.msm.map MsmPair.canon := congrArg State.msm h.canon
    rw [h.params, h.pairs.length_eq]
    split
    · exact .error _
    · refine .ok ?_
      simp only [WritesAlike, List.map, Write.canon, List.map_append, hl,
        PairAlike.canon_eq (m := ⟨n, e⟩) (m' := ⟨n, f⟩) ⟨rfl, he⟩]
  | msmRun =>
    rw [writes, writes, h.pairs.length_eq]
    split
    · exact .error _
    · exact .ok (.append (.p (q := .ext _) (r := .ext _) _ (msmSum_congr h.pairs)) rfl)
  | ell2 => exact agree_withF h fun _ _ e => .f _ (elligator2_congr e)
  | mtoe d a imm =>
    exact (h.srcF _).bind fun u u' hu => by
      rw [montToEdwards_congr hu, h.params]
      exact Agree.refl (R := WritesAlike) (fun _ => rfl) _

/-! ### Steps alike -/

theorem canon_takeFault (k : FaultCode) (w : Word) : (s.takeFault k w).canon = (s'.takeFault k w).canon :=
  congrArg (State.takeFault · k w) h.canon

theorem exec_congr (i : Instr) : canonResult (exec i s) = canonResult (exec i s') := by
  rw [exec_eq, exec_eq]
  unfold command
  rw [h.params]
  split
  · exact congrArg Host.Outcome.next (canon_takeFault h _ _)
  · have hw := writes_congr h i
    revert hw
    generalize writes i s = x
    generalize writes i s' = y
    rintro (@⟨ws, ws', e⟩ | k)
    · have ht : (s.applyAll ws).canon = (s'.applyAll ws').canon := by
        rw [State.applyAll_canon, State.applyAll_canon, h.canon, e]
      exact congrArg (fun u => Host.Outcome.next (State.retire u)) ht
    · exact congrArg Host.Outcome.next (canon_takeFault h _ _)

theorem acceptWord_congr (w : Word) : canonResult (acceptWord w s) = canonResult (acceptWord w s') := by
  rw [acceptWord, acceptWord, h.fault, h.params]
  split
  · exact congrArg Host.Outcome.next h.canon
  · split
    · exact exec_congr h _
    · exact congrArg Host.Outcome.next (canon_takeFault h _ _)

end

/-! ### The host's side -/

theorem tagCode_canon (q : Option Point) : tagCode (q.map Point.canon) = tagCode q := by
  cases q with
  | none => rfl
  | some q => cases q <;> simp only [Option.map, Point.canon, tagCode]

theorem tagSum_canon (s : State) (i n : Nat) : tagSum s.canon i n = tagSum s i n := by
  induction n generalizing i with
  | zero => rfl
  | succ n ih =>
    have hq : tagCode (s.canon.P.getD i none) = tagCode (s.P.getD i none) := by
      rw [show s.canon.P = s.P.map (Option.map Point.canon) from rfl, getD_map_option, tagCode_canon]
    rw [tagSum, tagSum, ih, hq]

theorem validBit_map {α β : Type} (f : α → β) (l : List (Option α)) :
    validBit (l.map (Option.map f)) = validBit l := by
  funext i
  rw [validBit, validBit, getD_map_option, Option.isSome_map]

/-- The host reads nothing of a limb vector (10_state.md R33). -/
theorem hostRead_canon (s : State) (offset : Nat) : hostRead s.canon offset = hostRead s offset := by
  have hm : msmcntWord s.canon = msmcntWord s := by
    rw [msmcntWord, msmcntWord, show s.canon.msm = s.msm.map MsmPair.canon from rfl, List.length_map]
  have ht : ptagWord s.canon = ptagWord s := by rw [ptagWord, ptagWord, tagSum_canon]
  have hv : rvalidWord s.canon = rvalidWord s := by
    rw [rvalidWord, rvalidWord, show s.canon.F = s.F.map (Option.map Fe.canon) from rfl, validBit_map]
    rfl
  simp only [hostRead, hm, ht, hv]
  rfl

/-- Resets do not tell the two states apart. -/
theorem canon_resetBlock (s : State) : s.resetBlock.canon = s.canon.resetBlock := by
  simp only [State.resetBlock, State.resetOf, State.canon, List.map_replicate, Option.map_none, List.map_nil]

theorem hostWrite_canon (s : State) (offset : Nat) (w : Word) :
    (hostWrite s offset w).canon = hostWrite s.canon offset w := by
  simp only [hostWrite, apply_ite State.canon, canon_resetBlock]
  rfl

theorem driveReset_canon (s : State) (a : Bool) : (driveReset s a).canon = driveReset s.canon a := by
  cases a with
  | true => exact congrArg (fun u : State => { u with resetIn := true }) (canon_resetBlock s)
  | false => rfl

section
variable {s s' : State} (h : StateAlike s s')
include h

theorem hostRead_congr (offset : Nat) : hostRead s offset = hostRead s' offset := by
  rw [← hostRead_canon, h.canon, hostRead_canon]

theorem busAccess_congr (offset : Nat) {act act' : Result} (ha : canonResult act = canonResult act') :
    canonResult (busAccess s offset act) = canonResult (busAccess s' offset act') := by
  simp only [busAccess, h.resetIn, h.params, apply_ite canonResult, ha]

theorem busEvent_congr (e : BusEvent) :
    canonResult (busEvent acceptWord e s) = canonResult (busEvent acceptWord e s') := by
  cases e with
  | read offset =>
    refine busAccess_congr h offset (congrArg Host.Outcome.next ?_)
    rw [hostRead_congr h]
    exact congrArg (fun u : State => { u with readLog := u.readLog ++ [hostRead s' offset] }) h.canon
  | write offset w =>
    refine busAccess_congr h offset ?_
    split
    · exact acceptWord_congr h w
    · exact congrArg Host.Outcome.next (by rw [hostWrite_canon, h.canon, hostWrite_canon])
  | otherWidth offset w => simp only [busEvent, h.resetIn, apply_ite canonResult]
  | resetInput a => exact congrArg Host.Outcome.next (by rw [driveReset_canon, h.canon, driveReset_canon])

/-- The host's remaining events are no limb vectors. -/
theorem StateAlike.withBus (es : List BusEvent) : StateAlike { s with bus := es } { s' with bus := es } :=
  ⟨h.left, h.right, congrArg (fun u : State => { u with bus := es }) h.canon⟩

theorem step_congr : canonResult (step s) = canonResult (step s') := by
  rw [step, step, nextEvent, nextEvent, h.bus]
  split
  · exact congrArg Host.Outcome.next h.canon
  · exact busEvent_congr (h.withBus _) _

end

/-- Settles O14: the writes of a command agree up to limb vectors of one value, and the host reads none. -/
theorem limbsAreUnobservable : Obligations.LimbsAreUnobservable := by
  unfold Obligations.LimbsAreUnobservable
  intro s s' hl hr hc
  have h : StateAlike s s' := ⟨hl, hr, hc⟩
  exact ⟨step_congr h, hostRead_congr h⟩

end Sys2Proof.Machine

/-! SUPPORT. The ORAM window and the host's accesses: little-endian byte strings, a byte string read back, what the host's
next event does, and a run of word writes (20_memory.md R75 to R80). -/
namespace Sys2Proof.Machine

/-! ### Little-endian byte strings (00_scope.md R7) -/

theorem le_append (xs ys : List Byte) : le (xs ++ ys) = le xs + 256 ^ xs.length * le ys := by
  induction xs with
  | nil => simp [le]
  | cons b xs ih => rw [List.cons_append, le, le, ih, List.length_cons]; ring

/-- The bytes of an integer give it back, up to the bytes left out. -/
theorem le_leBytes (n v : Nat) : le (leBytes n v) = v % 256 ^ n := by
  induction n generalizing v with
  | zero => rw [leBytes, le, Nat.pow_zero, Nat.mod_one]
  | succ n ih => rw [leBytes, le, ih, BitVec.toNat_ofNat, pow_succ' 256 n, Nat.mod_mul]

theorem leBytes_getElem (n v i : Nat) (h : i < (leBytes n v).length) :
    (leBytes n v)[i] = BitVec.ofNat 8 (v / 2 ^ (8 * i)) := by
  induction n generalizing v i with
  | zero => simp at h
  | succ n ih =>
    cases i with
    | zero => simp [leBytes]
    | succ i =>
      simp only [leBytes, List.getElem_cons_succ, ih, Nat.div_div_eq_div_mul]
      rw [Nat.mul_add, Nat.pow_add, Nat.mul_comm]

/-- The bytes of a list of words, each word's bytes lowest first (20_memory.md R75). -/
def wordBytes (ws : List Word) : List Byte := ws.flatMap fun w => leBytes 4 w.toNat

@[simp] theorem wordBytes_cons (w : Word) (ws : List Word) : wordBytes (w :: ws) = leBytes 4 w.toNat ++ wordBytes ws := rfl

theorem wordBytes_length (ws : List Word) : (wordBytes ws).length = 4 * ws.length := by
  induction ws with
  | nil => rfl
  | cons w ws ih => rw [wordBytes_cons, List.length_append, ih, leBytes_length, List.length_cons]; omega

/-- The integer of a list of words (20_memory.md R75). -/
theorem le_wordBytes (ws : List Word) : le (wordBytes ws) = ws.foldr (fun w n => w.toNat + 2 ^ 32 * n) 0 := by
  induction ws with
  | nil => rfl
  | cons w ws ih =>
    rw [wordBytes_cons, le_append, le_leBytes, ih, leBytes_length, List.foldr_cons,
      Nat.mod_eq_of_lt (show w.toNat < 256 ^ 4 from w.isLt)]
    rfl

/-! ### A byte string in memory (R72, R73) -/

theorem memWrite_append (m : Memory) (a : Nat) (xs ys : List Byte) :
    memWrite m a (xs ++ ys) = memWrite (memWrite m a xs) (a + xs.length) ys := by
  induction xs generalizing m a with
  | nil => rfl
  | cons b xs ih => rw [List.cons_append, memWrite, memWrite, ih, List.length_cons, Nat.add_right_comm, Nat.add_assoc]

/-- A byte string written is the byte string read. -/
theorem memRead_memWrite_self {m : Memory} (hm : Memory.wf m = true) (a : Nat) (bs : List Byte) :
    memRead (memWrite m a bs) a bs.length = bs := by
  refine List.ext_getElem (memRead_length ..) fun i h hi => ?_
  rw [memRead_getElem, readByte_memWrite_inside m a i bs hm hi]

/-- A word of ORAM is the integer of its four bytes (R75). -/
theorem oramWord_toNat (m : Memory) (a : Nat) :
    (oramWord m a).toNat = (readByte m a).toNat + (readByte m (a + 1)).toNat * 2 ^ 8 +
      (readByte m (a + 2)).toNat * 2 ^ 16 + (readByte m (a + 3)).toNat * 2 ^ 24 := by
  have h0 := (readByte m a).isLt
  have h1 := (readByte m (a + 1)).isLt
  have h2 := (readByte m (a + 2)).isLt
  have h3 := (readByte m (a + 3)).isLt
  simp only [oramWord, memRead, le, BitVec.toNat_ofNat, Nat.add_assoc, Nat.reduceAdd]
  omega

/-! ### The offsets of the window (10_state.md R43) -/

/-- Word `j` of ORAM lies in the window. -/
theorem oramOffset_mem_window {prm : Params} {j : Nat} (hj : j < 8 * prm.nslot) :
    oramOffset ≤ oramOffset + 4 * j ∧ oramOffset + 4 * j < windowEnd prm := by
  unfold windowEnd
  omega

theorem hostRead_oram {s : State} {j : Nat} (hj : j < 8 * s.params.nslot) :
    hostRead s (oramOffset + 4 * j) = oramWord s.oram (4 * j) := by
  obtain ⟨hlo, hhi⟩ := oramOffset_mem_window hj
  unfold hostRead
  rw [if_pos hlo, if_pos hhi, Nat.add_sub_cancel_left]

theorem hostWrite_oram {s : State} {j : Nat} (w : Word) (hj : j < 8 * s.params.nslot) :
    hostWrite s (oramOffset + 4 * j) w = { s with oram := memWrite s.oram (4 * j) (leBytes 4 w.toNat) } := by
  have hne : oramOffset + 4 * j ≠ ctrlOffset := by
    unfold oramOffset ctrlOffset
    omega
  rw [hostWrite, if_neg hne, if_pos (oramOffset_mem_window hj), Nat.add_sub_cancel_left]

/-- A register write but to CTRL and CMD changes nothing, where a write to CMD does not come here (R43). -/
theorem hostWrite_readOnly {s : State} {o : Nat} (w : Word) (hlt : o < oramOffset) (hne : o ≠ ctrlOffset) :
    hostWrite s o w = s := by
  rw [hostWrite, if_neg hne, if_neg fun h => absurd h.1 (by omega)]

/-! ### Accesses (20_memory.md R78, R80) -/

theorem step_of_bus {s : State} {e : BusEvent} {es : List BusEvent} (hb : s.bus = e :: es) :
    step s = busEvent acceptWord e { s with bus := es } := by
  rw [step, nextEvent, hb]

section
variable {s : State} {o : Nat} (hr : s.resetIn = false)
include hr

theorem busAccess_misaligned (act : Result) (ho : o % 4 ≠ 0) : busAccess s o act = .refused .misalignedAccess := by
  simp [busAccess, hr, ho]

theorem busAccess_past (act : Result) (ho : o % 4 = 0) (hw : windowEnd s.params ≤ o) :
    busAccess s o act = .fault .outsideWindow := by
  simp [busAccess, hr, ho, hw]

theorem busAccess_inside (act : Result) (ho : o % 4 = 0) (hw : o < windowEnd s.params) : busAccess s o act = act := by
  simp [busAccess, hr, ho, hw]

end

/-- A read or a write at an offset is an access there. -/
theorem step_access {s : State} {e : BusEvent} {es : List BusEvent} {o : Nat} (hb : s.bus = e :: es)
    (he : e = .read o ∨ ∃ w, e = .write o w) : ∃ act, step s = busAccess { s with bus := es } o act := by
  rw [step_of_bus hb]
  rcases he with rfl | ⟨w, rfl⟩
  · exact ⟨_, rfl⟩
  · exact ⟨_, rfl⟩

section
variable {s : State} {es : List BusEvent} {o : Nat} (hr : s.resetIn = false)
include hr

/-- A read in the window appends its word to what the host has read, and does nothing else (R77). -/
theorem step_read (hb : s.bus = .read o :: es) (ho : o % 4 = 0) (hw : o < windowEnd s.params) :
    step s = .next { s with bus := es, readLog := s.readLog ++ [hostRead s o] } := by
  rw [step_of_bus hb, busEvent, busAccess_inside (s := { s with bus := es }) hr _ ho hw]
  rfl

/-- A write in the window but to CMD is what `hostWrite` does, the event taken. -/
theorem step_write {w : Word} (hb : s.bus = .write o w :: es) (ho : o % 4 = 0) (hw : o < windowEnd s.params)
    (hne : o ≠ cmdOffset) : step s = .next (hostWrite { s with bus := es } o w) := by
  rw [step_of_bus hb, busEvent, busAccess_inside (s := { s with bus := es }) hr _ ho hw, if_neg hne]

/-- A write of a word of ORAM (R79). -/
theorem step_write_oram {j : Nat} {w : Word} (hb : s.bus = .write (oramOffset + 4 * j) w :: es)
    (hj : j < 8 * s.params.nslot) :
    step s = .next { s with bus := es, oram := memWrite s.oram (4 * j) (leBytes 4 w.toNat) } := by
  have ho : (oramOffset + 4 * j) % 4 = 0 := by
    unfold oramOffset
    omega
  have hne : oramOffset + 4 * j ≠ cmdOffset := by
    unfold oramOffset cmdOffset
    omega
  rw [step_write hr hb ho (oramOffset_mem_window hj).2 hne,
    hostWrite_oram (s := { s with bus := es }) w hj]

end

/-! ### A run of word writes -/

/-- The host writes words from an offset on. -/
def wordWrites (o : Nat) (ws : List Word) : List BusEvent :=
  (List.range ws.length).map fun i => .write (o + 4 * i) (ws.getD i 0)

theorem wordWrites_cons (o : Nat) (w : Word) (ws : List Word) :
    wordWrites o (w :: ws) = .write o w :: wordWrites (o + 4) ws := by
  have h (i : Nat) : o + 4 * (i + 1) = o + 4 + 4 * i := by omega
  simp [wordWrites, List.range_succ_eq_map, Function.comp_def, h]

/-- Words written one after the other leave ORAM with their bytes (R79). -/
theorem runSteps_wordWrites {s : State} {j : Nat} {ws : List Word} {es : List BusEvent}
    (hb : s.bus = wordWrites (oramOffset + 4 * j) ws ++ es) (hr : s.resetIn = false)
    (hj : j + ws.length ≤ 8 * s.params.nslot) :
    runSteps ws.length s = some { s with bus := es, oram := memWrite s.oram (4 * j) (wordBytes ws) } := by
  induction ws generalizing s j with
  | nil => cases s; cases hb; rfl
  | cons w ws ih =>
    have hj' : j + 1 + ws.length ≤ 8 * s.params.nslot := by
      rw [List.length_cons] at hj
      omega
    rw [wordWrites_cons, List.cons_append] at hb
    rw [List.length_cons, runSteps, step_write_oram hr hb (by omega), wordBytes_cons, memWrite_append, leBytes_length]
    exact ih (j := j + 1) (s := { s with
      bus := wordWrites (oramOffset + 4 * j + 4) ws ++ es,
      oram := memWrite s.oram (4 * j) (leBytes 4 w.toNat) }) rfl hr hj'

/-! ### The statements -/

/-- Settles O60: a word by its four bytes, a write by the laws of `memWrite`, a slot by the run of its eight writes. -/
theorem oramWindow : Obligations.OramWindow := by
  unfold Obligations.OramWindow
  refine ⟨fun s j hj => ?_, fun s j w es hb hj hr hm => ?_, fun s k ws es hlen hk hb hr hm => ?_⟩
  · exact (congrArg BitVec.toNat (hostRead_oram hj)).trans (oramWord_toNat _ _)
  · refine ⟨_, step_write_oram hr hb hj, Memory.wf_memWrite _ _ _ hm, fun i hi => ?_, fun a ha => ?_⟩
    · rw [readByte_memWrite_inside _ _ _ _ hm (by rwa [leBytes_length]), leBytes_getElem]
    · exact readByte_memWrite_outside _ _ _ _ (by rwa [leBytes_length])
  · have hb' : s.bus = wordWrites (oramOffset + 4 * (8 * k)) ws ++ es := by
      rw [hb, wordWrites, hlen, ← Nat.mul_assoc]
      rfl
    have hrun := runSteps_wordWrites hb' hr (by omega)
    rw [hlen] at hrun
    refine ⟨_, hrun, rfl, ?_⟩
    have hread := memRead_memWrite_self hm (4 * (8 * k)) (wordBytes ws)
    rw [wordBytes_length, hlen, ← Nat.mul_assoc] at hread
    rw [← le_wordBytes, ← Nat.mul_assoc]
    exact congrArg le hread

/-- Settles O57: the outcomes of `busAccess`, one by one. -/
theorem hostAccesses : Obligations.HostAccesses := by
  unfold Obligations.HostAccesses
  intro s e es hb hr
  refine ⟨fun o n he => ?_, fun o ho he => ?_, fun o ho hw he => ?_, fun o ho hw he => ?_,
    fun o w ho hlt hcmd hctrl he => ?_⟩
  · rw [step_of_bus hb, he, busEvent, if_neg (by rw [hr]; decide)]
  · obtain ⟨act, ha⟩ := step_access hb he
    exact ha.trans (busAccess_misaligned hr act ho)
  · obtain ⟨act, ha⟩ := step_access hb he
    exact ha.trans (busAccess_past hr act ho hw)
  · exact step_read hr (he ▸ hb) ho hw
  · have hw : o < windowEnd s.params := hlt.trans_le (Nat.le_add_right ..)
    rw [step_write hr (he ▸ hb) ho hw hcmd, hostWrite_readOnly w hlt hctrl]

end Sys2Proof.Machine

/-! SUPPORT. Decoding and encoding (30_encoding.md R100 to R110): what the checks of a command find, what the decoder
answers by the row of the opcode, and the row of every command's word. -/
namespace Sys2Proof.Machine

/-! ### The checks of a command (R101 to R103, R110) -/

theorem exists_false_iff_not_all {α : Type} (f : α → Bool) (l : List α) :
    (∃ x ∈ l, f x = false) ↔ ¬ l.all f = true := by simp

section
variable (prm : Params) (i : Instr)

/-- The conditions of `wellFormed`, written row by row of R107, are those of the command's operands: in each row the two
are one conjunction, the field conditions and the slot condition that comes last. -/
theorem wellFormed_iff_operands : i.WellFormed prm ↔
    (∀ o ∈ i.operands, o.fieldLegal prm = true) ∧ ∀ o ∈ i.operands, o.slotLegal prm = true := by
  cases i <;>
    simp [Instr.WellFormed, Instr.wellFormed, Instr.operands, Operand.fieldLegal, Operand.slotLegal, and_assoc]

theorem check_eq_none_iff_wellFormed : i.check prm = none ↔ i.WellFormed prm :=
  (check_eq_none_iff prm i).trans (wellFormed_iff_operands prm i).symm

/-- Step 4 of R103. -/
theorem check_eq_illegalField_iff : i.check prm = some .illegalField ↔
    ∃ o ∈ i.operands, o.fieldLegal prm = false := by
  rw [exists_false_iff_not_all, Instr.check]
  split
  · next hf => split <;> simp [hf]
  · next hf => exact iff_of_true rfl hf

/-- Step 5 of R103, after step 4. -/
theorem check_eq_slotRange_iff : i.check prm = some .slotRange ↔
    (∀ o ∈ i.operands, o.fieldLegal prm = true) ∧ ∃ o ∈ i.operands, o.slotLegal prm = false := by
  rw [exists_false_iff_not_all, ← List.all_eq_true, Instr.check]
  split
  · next hf => split <;> simp [*]
  · next hf => simp [hf]

theorem check_cases :
    i.check prm = none ∨ i.check prm = some .illegalField ∨ i.check prm = some .slotRange := by
  unfold Instr.check
  split
  · split
    · exact .inl rfl
    · exact .inr (.inr rfl)
  · exact .inr (.inl rfl)

end

/-! ### What the decoder answers, in the order of R103 -/

section
variable {prm : Params} {w : Word} {r : Row}

theorem decode_of_rowOf_none (h : rowOf (fieldOp w) = none) : decode prm w = .error .illegalOpcode := by
  simp only [decode, h]

/-- A word with a bit set outside its row's fields (R105). -/
theorem decode_of_mask_ne (h : rowOf (fieldOp w) = some r) (hm : w &&& r.mask ≠ r.matchWord) :
    decode prm w = .error .illegalField := by
  simp only [decode, h, if_neg hm]

theorem decode_of_check_none (h : rowOf (fieldOp w) = some r) (hm : w &&& r.mask = r.matchWord)
    (hc : (r.build w).check prm = none) : decode prm w = .ok (r.build w) := by
  simp only [decode, h, if_pos hm, hc]

theorem decode_of_check_some {k : FaultCode} (h : rowOf (fieldOp w) = some r) (hm : w &&& r.mask = r.matchWord)
    (hc : (r.build w).check prm = some k) : decode prm w = .error k := by
  simp only [decode, h, if_pos hm, hc]

/-- A word of an assigned opcode, through all its checks. -/
theorem decode_cases (h : rowOf (fieldOp w) = some r) :
    (w &&& r.mask ≠ r.matchWord ∧ decode prm w = .error .illegalField) ∨
    (w &&& r.mask = r.matchWord ∧ (r.build w).check prm = none ∧ decode prm w = .ok (r.build w)) ∨
    ∃ k, (k = .illegalField ∨ k = .slotRange) ∧
      w &&& r.mask = r.matchWord ∧ (r.build w).check prm = some k ∧ decode prm w = .error k := by
  by_cases hm : w &&& r.mask = r.matchWord
  · obtain hc | hc | hc := check_cases prm (r.build w)
    · exact .inr (.inl ⟨hm, hc, decode_of_check_none h hm hc⟩)
    · exact .inr (.inr ⟨_, .inl rfl, hm, hc, decode_of_check_some h hm hc⟩)
    · exact .inr (.inr ⟨_, .inr rfl, hm, hc, decode_of_check_some h hm hc⟩)
  · exact .inl ⟨hm, decode_of_mask_ne h hm⟩

/-- Every word is a command or one of three faults (R103). -/
theorem decode_total (prm : Params) (w : Word) :
    (∃ i, decode prm w = .ok i) ∨ decode prm w = .error .illegalOpcode ∨ decode prm w = .error .illegalField ∨
      decode prm w = .error .slotRange := by
  cases hr : rowOf (fieldOp w) with
  | none => exact .inr (.inl (decode_of_rowOf_none hr))
  | some r =>
    obtain ⟨-, hd⟩ | ⟨-, -, hd⟩ | ⟨k, rfl | rfl, -, -, hd⟩ := decode_cases (prm := prm) hr
    · exact .inr (.inr (.inl hd))
    · exact .inl ⟨_, hd⟩
    · exact .inr (.inr (.inl hd))
    · exact .inr (.inr (.inr hd))

theorem decode_eq_illegalOpcode_iff : decode prm w = .error .illegalOpcode ↔ rowOf (fieldOp w) = none := by
  refine ⟨fun hd => ?_, decode_of_rowOf_none⟩
  cases hr : rowOf (fieldOp w) with
  | none => rfl
  | some r =>
    obtain ⟨-, h⟩ | ⟨-, -, h⟩ | ⟨k, rfl | rfl, -, -, h⟩ := decode_cases (prm := prm) hr <;> cases hd.symm.trans h

theorem decode_eq_illegalField_iff (h : rowOf (fieldOp w) = some r) : decode prm w = .error .illegalField ↔
    w &&& r.mask ≠ r.matchWord ∨ ∃ o ∈ (r.build w).operands, o.fieldLegal prm = false := by
  rw [← check_eq_illegalField_iff]
  obtain ⟨hm, hd⟩ | ⟨hm, hc, hd⟩ | ⟨k, -, hm, hc, hd⟩ := decode_cases (prm := prm) h <;> simp [*]

theorem decode_eq_slotRange_iff (h : rowOf (fieldOp w) = some r) : decode prm w = .error .slotRange ↔
    w &&& r.mask = r.matchWord ∧ (∀ o ∈ (r.build w).operands, o.fieldLegal prm = true) ∧
      ∃ o ∈ (r.build w).operands, o.slotLegal prm = false := by
  rw [← check_eq_slotRange_iff]
  obtain ⟨hm, hd⟩ | ⟨hm, hc, hd⟩ | ⟨k, -, hm, hc, hd⟩ := decode_cases (prm := prm) h <;> simp [*]

/-- A command that is decoded has passed the checks (R103). -/
theorem wellFormed_of_decode {i : Instr} (hd : decode prm w = .ok i) : i.WellFormed prm := by
  cases hr : rowOf (fieldOp w) with
  | none => cases hd.symm.trans (decode_of_rowOf_none hr)
  | some r =>
    obtain ⟨-, h⟩ | ⟨-, hc, h⟩ | ⟨k, -, -, -, h⟩ := decode_cases (prm := prm) hr
    · cases hd.symm.trans h
    · cases hd.symm.trans h
      exact (check_eq_none_iff_wellFormed prm _).1 hc
    · cases hd.symm.trans h

end

/-! ### The opcodes (R107, R108) -/

theorem rowOf_eq_none_iff_notMem (op : BitVec 8) : rowOf op = none ↔ op ∉ rows.map Row.op := by
  simp only [rowOf, List.find?_eq_none, beq_iff_eq, List.mem_map, not_exists, not_and]

/-- The opcodes R108 lists as illegal. -/
def UnassignedOpcode (n : Nat) : Prop :=
  n = 0 ∨ (2 ≤ n ∧ n ≤ 7) ∨ (0x0D ≤ n ∧ n ≤ 0x0F) ∨ (0x26 ≤ n ∧ n ≤ 0x2F) ∨ (0x3D ≤ n ∧ n ≤ 0x3F) ∨
    (0x44 ≤ n ∧ n ≤ 0x4F) ∨ (0x69 ≤ n ∧ n ≤ 0x6F) ∨ (0x75 ≤ n ∧ n ≤ 0x77) ∨ 0x7A ≤ n

theorem rowOf_eq_none_iff (op : BitVec 8) : rowOf op = none ↔ UnassignedOpcode op.toNat := by
  rw [rowOf_eq_none_iff_notMem]
  revert op
  unfold UnassignedOpcode
  decide +kernel

theorem fieldOp_toNat (w : Word) : (fieldOp w).toNat = w.toNat / 2 ^ 24 := by
  have := w.isLt
  simp only [fieldOp, bitsAt, BitVec.toNat_ofNat]
  omega

theorem decode_eq_illegalOpcode_iff_unassigned (prm : Params) (w : Word) :
    decode prm w = .error .illegalOpcode ↔ UnassignedOpcode (w.toNat / 2 ^ 24) := by
  rw [decode_eq_illegalOpcode_iff, rowOf_eq_none_iff, fieldOp_toNat]

/-! ### The word of a command -/

/-- The row of a command's word gives the command back (R107). -/
theorem encodedRow : ∀ i, Laws.EncodedRow.Statement i
  | .nop => Laws.EncodedRow.nop
  | .chSet .. => Laws.EncodedRow.chSet ..
  | .chNot .. => Laws.EncodedRow.chNot ..
  | .chAnd .. => Laws.EncodedRow.chAnd ..
  | .chOr .. => Laws.EncodedRow.chOr ..
  | .chXor .. => Laws.EncodedRow.chXor ..
  | .feLd .. => Laws.EncodedRow.feLd ..
  | .feSt .. => Laws.EncodedRow.feSt ..
  | .feConst .. => Laws.EncodedRow.feConst ..
  | .feMov .. => Laws.EncodedRow.feMov ..
  | .feAdd .. => Laws.EncodedRow.feAdd ..
  | .feSub .. => Laws.EncodedRow.feSub ..
  | .feNeg .. => Laws.EncodedRow.feNeg ..
  | .feMul .. => Laws.EncodedRow.feMul ..
  | .feSq .. => Laws.EncodedRow.feSq ..
  | .feSq2 .. => Laws.EncodedRow.feSq2 ..
  | .fePow2k .. => Laws.EncodedRow.fePow2k ..
  | .feInv .. => Laws.EncodedRow.feInv ..
  | .fePowp58 .. => Laws.EncodedRow.fePowp58 ..
  | .fePow22501 .. => Laws.EncodedRow.fePow22501 ..
  | .feSqrtri .. => Laws.EncodedRow.feSqrtri ..
  | .feRed .. => Laws.EncodedRow.feRed ..
  | .feCsel .. => Laws.EncodedRow.feCsel ..
  | .feCneg .. => Laws.EncodedRow.feCneg ..
  | .feCassign .. => Laws.EncodedRow.feCassign ..
  | .feEq .. => Laws.EncodedRow.feEq ..
  | .feIsneg .. => Laws.EncodedRow.feIsneg ..
  | .feIszero .. => Laws.EncodedRow.feIszero ..
  | .scLd .. => Laws.EncodedRow.scLd ..
  | .scLdw .. => Laws.EncodedRow.scLdw ..
  | .scSt .. => Laws.EncodedRow.scSt ..
  | .scMov .. => Laws.EncodedRow.scMov ..
  | .scAdd .. => Laws.EncodedRow.scAdd ..
  | .scSub .. => Laws.EncodedRow.scSub ..
  | .scMul .. => Laws.EncodedRow.scMul ..
  | .scNeg .. => Laws.EncodedRow.scNeg ..
  | .scRed .. => Laws.EncodedRow.scRed ..
  | .scIscanon .. => Laws.EncodedRow.scIscanon ..
  | .scMmul .. => Laws.EncodedRow.scMmul ..
  | .scTomont .. => Laws.EncodedRow.scTomont ..
  | .scFrommont .. => Laws.EncodedRow.scFrommont ..
  | .scRadix16 .. => Laws.EncodedRow.scRadix16 ..
  | .scRadix2w .. => Laws.EncodedRow.scRadix2w ..
  | .scNaf .. => Laws.EncodedRow.scNaf ..
  | .dgSt .. => Laws.EncodedRow.dgSt ..
  | .ptIdent .. => Laws.EncodedRow.ptIdent ..
  | .ptBase .. => Laws.EncodedRow.ptBase ..
  | .ptMov .. => Laws.EncodedRow.ptMov ..
  | .ptDecomp .. => Laws.EncodedRow.ptDecomp ..
  | .ptComp .. => Laws.EncodedRow.ptComp ..
  | .ptE2p .. => Laws.EncodedRow.ptE2p ..
  | .ptE2pn .. => Laws.EncodedRow.ptE2pn ..
  | .ptE2an .. => Laws.EncodedRow.ptE2an ..
  | .ptP2e .. => Laws.EncodedRow.ptP2e ..
  | .ptC2p .. => Laws.EncodedRow.ptC2p ..
  | .ptC2e .. => Laws.EncodedRow.ptC2e ..
  | .ptDbl .. => Laws.EncodedRow.ptDbl ..
  | .ptAdd .. => Laws.EncodedRow.ptAdd ..
  | .ptSub .. => Laws.EncodedRow.ptSub ..
  | .ptNeg .. => Laws.EncodedRow.ptNeg ..
  | .ptCsel .. => Laws.EncodedRow.ptCsel ..
  | .ptCneg .. => Laws.EncodedRow.ptCneg ..
  | .ptCassign .. => Laws.EncodedRow.ptCassign ..
  | .ptEq .. => Laws.EncodedRow.ptEq ..
  | .ptIssmall .. => Laws.EncodedRow.ptIssmall ..
  | .ptIsident .. => Laws.EncodedRow.ptIsident ..
  | .ptMulcof .. => Laws.EncodedRow.ptMulcof ..
  | .ptEadd .. => Laws.EncodedRow.ptEadd ..
  | .ptEsub .. => Laws.EncodedRow.ptEsub ..
  | .ptEdbl .. => Laws.EncodedRow.ptEdbl ..
  | .ptSmul .. => Laws.EncodedRow.ptSmul ..
  | .ptDsmb .. => Laws.EncodedRow.ptDsmb ..
  | .msmClr => Laws.EncodedRow.msmClr
  | .msmPush .. => Laws.EncodedRow.msmPush ..
  | .msmRun .. => Laws.EncodedRow.msmRun ..
  | .ell2 .. => Laws.EncodedRow.ell2 ..
  | .mtoe .. => Laws.EncodedRow.mtoe ..

/-- Settles O1: the row of the command's word passes its mask and builds the command, whose checks pass. -/
theorem decodeOfEncode : Obligations.DecodeOfEncode := by
  unfold Obligations.DecodeOfEncode
  intro prm i hw
  obtain ⟨r, hr, hm, hb⟩ := encodedRow i
  have hc : (r.build (encode i)).check prm = none := by rwa [hb, check_eq_none_iff_wellFormed]
  rw [decode_of_check_none hr hm hc, hb]

/-- Settles O2: by the inverse of each row, and because what is decoded has passed the checks. -/
theorem encodeOfDecode : Obligations.EncodeOfDecode := by
  unfold Obligations.EncodeOfDecode
  exact fun prm w i hd => ⟨encode_of_decode hd, wellFormed_of_decode hd⟩

/-- Settles O3: NOP's word is the only one of NOP because a word that decodes is its command's. -/
theorem illegalOpcodes : Obligations.IllegalOpcodes := by
  unfold Obligations.IllegalOpcodes
  intro prm w
  refine ⟨decode_eq_illegalOpcode_iff_unassigned prm w, fun hw => ?_, ⟨fun hd => ?_, fun hw => ?_⟩, decode_total prm w⟩
  · rw [decode_eq_illegalOpcode_iff_unassigned]
    obtain rfl | rfl := hw <;> simp [UnassignedOpcode]
  · exact (encode_of_decode hd).symm
  · exact hw ▸ decodeOfEncode prm .nop rfl

/-- Settles O4: the words are those `encode` gives the commands. -/
theorem decodedWords : Obligations.DecodedWords := by
  unfold Obligations.DecodedWords
  exact ⟨decodeOfEncode _ (.chSet 3 1) (by decide), decodeOfEncode _ (.feSqrtri 2 0 1 0) (by decide),
    decodeOfEncode _ (.scRadix2w 1 0 8) (by decide), decodeOfEncode _ (.ptDecomp 1 0 3) (by decide),
    decodeOfEncode _ (.ptDsmb 2 0 1 1) (by decide), decodeOfEncode _ (.mtoe 0 1 1) (by decide)⟩

/-- Settles O5: the two faults by `decode_cases`, `exec` by the template of a command. -/
theorem decodeChecks : Obligations.DecodeChecks := by
  unfold Obligations.DecodeChecks
  refine ⟨fun prm w r hr => ⟨decode_eq_illegalField_iff hr, decode_eq_slotRange_iff hr⟩,
    check_eq_none_iff_wellFormed, fun s i k hk => ?_⟩
  rw [exec_eq]
  exact command_of_check hk

end Sys2Proof.Machine

/-! SUPPORT. The system and choice commands (40_system_choice.md R131 to R137): that a well-formed command with its
sources held makes its writes and retires, the choice sources and bits, and the word of NOP. -/
namespace Sys2Proof.Machine

/-! ### A command that completes (R130) -/

/-- A well-formed command whose sources answer makes its writes and retires. -/
theorem exec_of_writes {i : Instr} {s : State} {ws : List Write} (hwf : i.WellFormed s.params)
    (hws : writes i s = .ok ws) : exec i s = .next (s.applyAll ws).retire := by
  rw [exec_eq, hws]
  exact command_of_ok ((check_eq_none_iff_wellFormed s.params i).2 hwf)

/-- With no fault recorded, CMD executes the command its word decodes to (10_state.md R48). -/
theorem acceptWord_of_decode {w : Word} {s : State} {i : Instr} (hf : s.fault = false)
    (hd : decode s.params w = .ok i) : acceptWord w s = exec i s := by
  simp [acceptWord, hf, hd]

/-- With a fault recorded, CMD ignores every word (10_state.md R48). -/
theorem acceptWord_of_fault {s : State} (w : Word) (hf : s.fault = true) : acceptWord w s = .next s := by
  simp [acceptWord, hf]

/-! ### NOP (R131) -/

theorem exec_nop (s : State) : exec .nop s = .next s.retire := exec_of_writes (ws := []) rfl rfl

/-- NOP's row uses no bit below its opcode, so one word alone passes its mask (30_encoding.md R105). -/
theorem decode_of_nop_opcode (prm : Params) {w : Word} (hop : w.toNat / 2 ^ 24 = 0x01) :
    decode prm w = if w = 0x01000000 then .ok .nop else .error .illegalField := by
  split
  · next hw => exact hw ▸ decodeOfEncode prm .nop rfl
  · next hw =>
    have hfield : fieldOp w = 0x01 := BitVec.eq_of_toNat_eq ((fieldOp_toNat w).trans hop)
    have hrow : rowOf (fieldOp w) = some ⟨0x01, 0xFFFFFFFF, fun _ => .nop⟩ := by rw [hfield]; rfl
    have hmask : w &&& (0xFFFFFFFF : Word) = w := BitVec.and_allOnes
    exact decode_of_mask_ne hrow fun hm => hw (hmask.symm.trans hm)

/-- Settles O17: NOP makes no writes, and only its own word passes the mask of its row. -/
theorem nopRetires : Obligations.NopRetires := by
  unfold Obligations.NopRetires
  have hd : decode State.reset.params 0x01000000 = .ok .nop := decode_of_nop_opcode _ rfl
  exact ⟨exec_nop, fun prm _ hop => decode_of_nop_opcode prm hop, fun _ hf => acceptWord_of_fault _ hf,
    State.reset.retire, (acceptWord_of_decode rfl hd).trans (exec_nop _), rfl⟩

/-! ### The choice commands (R133 to R137) -/

/-- An immediate in the range of R102 is the bit CH_SET writes (R133). -/
theorem bitOfImm_eq_decide {imm : Imm} (h : imm.toNat ≤ 1) : bitOfImm imm = decide (imm = 1) := by
  obtain h0 | h1 := Nat.le_one_iff_eq_zero_or_eq_one.1 h
  · obtain rfl : imm = 0 := BitVec.eq_of_toNat_eq h0
    rfl
  · obtain rfl : imm = 1 := BitVec.eq_of_toNat_eq h1
    rfl

theorem choiceNot_eq_decide (x : Bool) : choiceNot x = decide (x = false) := by cases x <;> rfl

theorem choiceAnd_eq_decide (x y : Bool) : choiceAnd x y = decide (x = true ∧ y = true) := by
  cases x <;> cases y <;> rfl

theorem choiceOr_eq_decide (x y : Bool) : choiceOr x y = decide (x = true ∨ y = true) := by
  cases x <;> cases y <;> rfl

theorem choiceXor_eq_decide (x y : Bool) : choiceXor x y = decide (x ≠ y) := by
  cases x <;> cases y <;> rfl

section
variable {s : State} {d a b : RegNo} {x y : Bool}

theorem srcC_of_readC (hx : s.readC a = some x) : s.srcC a = .ok x := (source_ok_iff ..).2 hx

theorem withCC_of_readC (hx : s.readC a = some x) (hy : s.readC b = some y) (k : Bool → Bool → List Write) :
    withCC s a b k = .ok (k x y) := by
  rw [withCC, srcC_of_readC hx, srcC_of_readC hy]
  rfl

/-- A well-formed command of two choice sources that writes a choice bit (R135). -/
theorem exec_of_withCC {i : Instr} {f : Bool → Bool → Bool} (hwf : i.WellFormed s.params)
    (hi : writes i s = withCC s a b fun x y => [.c d (f x y)]) (hx : s.readC a = some x) (hy : s.readC b = some y) :
    exec i s = .next (s.writeC d (f x y)).retire :=
  exec_of_writes hwf (hi.trans (withCC_of_readC hx hy _))

theorem exec_chSet {imm : Imm} (hwf : (Instr.chSet d imm).WellFormed s.params) :
    exec (.chSet d imm) s = .next (s.writeC d (bitOfImm imm)).retire := exec_of_writes hwf rfl

theorem exec_chNot (hwf : (Instr.chNot d a).WellFormed s.params) (hx : s.readC a = some x) :
    exec (.chNot d a) s = .next (s.writeC d (choiceNot x)).retire := by
  refine exec_of_writes (ws := [.c d (choiceNot x)]) hwf ?_
  rw [writes, srcC_of_readC hx]
  rfl

end

/-- Settles O18: each command writes the bit of its Boolean function, which is the one its rule states. -/
theorem choiceCommands : Obligations.ChoiceCommands := by
  unfold Obligations.ChoiceCommands
  refine ⟨fun s d imm hwf => ?_, fun s d a x hwf hx => ?_, fun s d a b x y hd ha hb hx hy => ?_⟩
  · have himm : imm.toNat ≤ 1 := (of_decide_eq_true hwf).2
    rw [exec_chSet hwf, bitOfImm_eq_decide himm]
  · rw [exec_chNot hwf hx, choiceNot_eq_decide]
  · have hregs : decide (d.toNat < s.params.nc ∧ a.toNat < s.params.nc ∧ b.toNat < s.params.nc) = true :=
      decide_eq_true ⟨hd, ha, hb⟩
    rw [← choiceAnd_eq_decide, ← choiceOr_eq_decide, ← choiceXor_eq_decide]
    exact ⟨exec_of_withCC (i := .chAnd d a b) hregs rfl hx hy, exec_of_withCC (i := .chOr d a b) hregs rfl hx hy,
      exec_of_withCC (i := .chXor d a b) hregs rfl hx hy⟩

end Sys2Proof.Machine

/-! SUPPORT. The canonical encoding (41_field.md R158, R159, R163, R185): the bytes of `fe_tobytes` are those of the
value, `fe_frombytes` reads the integer modulo 2^255, and the tests of R163 are tests of the value. -/
namespace Sys2Proof.Machine

/-! ### Little-endian integers in parts (00_scope.md R7) -/

theorem le_drop (k : Nat) (bs : List Byte) : le (bs.drop k) = le bs / 256 ^ k := by
  induction k generalizing bs with
  | zero => simp
  | succ k ih =>
    cases bs with
    | nil => simp [le]
    | cons b bs =>
      have hb := b.isLt
      rw [List.drop_succ_cons, ih, le, pow_succ', ← Nat.div_div_eq_div_mul]
      congr 1
      omega

theorem le_take (k : Nat) (bs : List Byte) : le (bs.take k) = le bs % 256 ^ k := by
  induction k generalizing bs with
  | zero => simp [le, Nat.mod_one]
  | succ k ih =>
    cases bs with
    | nil => simp [le]
    | cons b bs =>
      have hb : b.toNat < 256 := b.isLt
      rw [List.take_succ_cons, le, le, ih, pow_succ', Nat.mod_mul, Nat.add_mul_mod_self_left, Nat.mod_eq_of_lt hb,
        Nat.add_mul_div_left _ _ (by decide), Nat.div_eq_of_lt hb, zero_add]

/-- A byte string is the bytes of its integer. -/
theorem leBytes_le (bs : List Byte) : leBytes bs.length (le bs) = bs := by
  induction bs with
  | nil => rfl
  | cons b bs ih =>
    have hb : b.toNat < 256 := b.isLt
    have hhead : BitVec.ofNat 8 (b.toNat + 256 * le bs) = b :=
      BitVec.eq_of_toNat_eq (by rw [BitVec.toNat_ofNat]; omega)
    have htail : (b.toNat + 256 * le bs) / 256 = le bs := by omega
    rw [List.length_cons, le, leBytes, hhead, htail, ih]

/-! ### `fe_tobytes` and `fe_frombytes` -/

/-- The byte lanes of a limb at steps of 8 are the bytes of the limb shifted (R158). -/
theorem le_lanes (l : BitVec 64) (k n : Nat) : le (lanes l (List.range' k n 8)) = l.toNat / 2 ^ k % 256 ^ n := by
  induction n generalizing k with
  | zero => simp [lanes, le, Nat.mod_one]
  | succ n ih =>
    have hbyte : ((l >>> k).setWidth 8).toNat = l.toNat / 2 ^ k % 256 := by
      rw [BitVec.toNat_setWidth, BitVec.toNat_ushiftRight, Nat.shiftRight_eq_div_pow]
    have htail : l.toNat / 2 ^ (k + 8) = l.toNat / 2 ^ k / 256 := by rw [Nat.div_div_eq_div_mul, pow_add]; rfl
    rw [List.range'_succ, lanes, List.map_cons, le, hbyte, ← lanes, ih, htail, pow_succ', Nat.mod_mul]

/-- The byte that two limbs share: the top bits of the low one, then low bits of the next (R158). -/
theorem mixed_toNat {lo hi : BitVec 64} {r s : Nat} (hlo : lo.toNat < 2 ^ (r + s)) (hhi : hi.toNat < 2 ^ 51)
    (hs : s ≤ 8) : (mixed lo r hi s).toNat = lo.toNat / 2 ^ r + 2 ^ s * (hi.toNat % 2 ^ (8 - s)) := by
  have hr : lo.toNat / 2 ^ r < 2 ^ s := Nat.div_lt_of_lt_mul (pow_add 2 r s ▸ hlo)
  have hfit : hi.toNat <<< s < 2 ^ 64 := by
    rw [Nat.shiftLeft_eq]
    calc hi.toNat * 2 ^ s ≤ hi.toNat * 2 ^ 8 := Nat.mul_le_mul_left _ (Nat.pow_le_pow_right (by decide) hs)
      _ < 2 ^ 64 := by omega
  have h8 : 2 ^ 8 = 2 ^ s * 2 ^ (8 - s) := by rw [← pow_add, Nat.add_sub_cancel' hs]
  rw [mixed, BitVec.toNat_setWidth, BitVec.toNat_or, BitVec.toNat_ushiftRight, BitVec.toNat_shiftLeft,
    Nat.mod_eq_of_lt hfit, Nat.shiftRight_eq_div_pow, Nat.or_comm, ← Nat.shiftLeft_add_eq_or_of_lt hr,
    Nat.shiftLeft_eq, h8, Nat.mod_mul, mul_comm hi.toNat, Nat.mul_add_mod, Nat.mod_eq_of_lt hr,
    Nat.mul_add_div (Nat.two_pow_pos s), Nat.div_eq_of_lt hr, add_zero]

/-- The integer of the canonical encoding is the value (R158): the lanes of R158 telescope to the canonical limbs. -/
theorem le_feToBytes {x : Fe} (h : x.Below 54) : le (feToBytes x) = x.fval := by
  rw [feToBytes, strictFe_eq, feCanonLimbs_eq h]
  obtain ⟨h0, h1, h2, h3, h4⟩ : x.canon.Below 51 := Fe.ofValue_below _
  have hsum : x.canon.limbSum = x.fval := Fe.ofValue_limbSum (x.fval_lt.trans p_lt)
  rw [← hsum, Fe.limbSum]
  generalize x.canon = z at *
  have L0 : le (lanes z.l0 [0, 8, 16, 24, 32, 40]) = _ := le_lanes z.l0 0 6
  have L1 : le (lanes z.l1 [5, 13, 21, 29, 37]) = _ := le_lanes z.l1 5 5
  have L2 : le (lanes z.l2 [2, 10, 18, 26, 34, 42]) = _ := le_lanes z.l2 2 6
  have L3 : le (lanes z.l3 [7, 15, 23, 31, 39]) = _ := le_lanes z.l3 7 5
  have L4 : le (lanes z.l4 [4, 12, 20, 28, 36, 44]) = _ := le_lanes z.l4 4 6
  simp only [le_append, L0, L1, L2, L3, L4, List.length_append, lanes_length, List.length_cons, List.length_nil, le,
    mixed_toNat (r := 48) (s := 3) h0 h1 (by decide), mixed_toNat (r := 45) (s := 6) h1 h2 (by decide),
    mixed_toNat (r := 50) (s := 1) h2 h3 (by decide), mixed_toNat (r := 47) (s := 4) h3 h4 (by decide)]
  omega

/-- `fe_frombytes` (R159): each load covers the 51 bits of its limb. -/
theorem feFromBytes_eq (bs : List Byte) : feFromBytes bs = Fe.ofValue (le bs % 2 ^ 255) := by
  simp only [feFromBytes, Fe.ofValue, load8, le_take, le_drop, and_M51, Nat.shiftRight_eq_div_pow]
  congr 1 <;> omega

/-- `fe_tobytes` (R158). -/
theorem feToBytes_eq {x : Fe} (h : x.Below 54) : feToBytes x = leBytes 32 x.fval := by
  rw [← le_feToBytes h, ← feToBytes_length x, leBytes_le]

theorem Fe.gf_ofValue {v : Nat} (h : v < 2 ^ 255) : (Fe.ofValue v).gf = (v : GF) := by
  rw [Fe.gf_eq, Fe.ofValue_limbSum h]

/-- The full reduction (R185). -/
theorem feFromBytes_feToBytes {x : Fe} (h : x.Below 54) : feFromBytes (feToBytes x) = x.canon := by
  rw [feFromBytes_eq, le_feToBytes h, Nat.mod_eq_of_lt (x.fval_lt.trans p_lt), Fe.canon]

/-! ### The tests (R163) -/

/-- `fe_is_negative` (R163). -/
theorem feIsNegative_eq {x : Fe} (h : x.Below 54) : feIsNegative x = decide (x.fval % 2 = 1) := by
  have hhead : (leBytes 32 x.fval).headD 0 = BitVec.ofNat 8 x.fval := rfl
  rw [feIsNegative, feToBytes_eq h, hhead, BitVec.getLsbD_ofNat, Nat.testBit_zero, decide_eq_true (by decide : 0 < 8),
    Bool.true_and]

theorem foldl_or_eq_zero_iff (bs : List Byte) (a : Byte) : bs.foldl (· ||| ·) a = 0 ↔ a = 0 ∧ ∀ b ∈ bs, b = 0 := by
  induction bs generalizing a with
  | nil => simp
  | cons b bs ih =>
    have hor : a ||| b = 0 ↔ a = 0 ∧ b = 0 := BitVec.or_eq_zero_iff
    rw [List.foldl_cons, ih, hor, List.forall_mem_cons, and_assoc]

/-- All bytes are 0 exactly when the integer is. -/
theorem allZero_iff (bs : List Byte) : allZero bs = true ↔ le bs = 0 := by
  rw [allZero, beq_iff_eq, foldl_or_eq_zero_iff]
  induction bs with
  | nil => simp [le]
  | cons b bs ih =>
    have hb : b = 0 ↔ b.toNat = 0 := BitVec.toNat_inj.symm
    simp only [true_and, List.forall_mem_cons, le] at ih ⊢
    rw [ih, hb]
    omega

/-- Byte strings of one length are equal exactly when no pair of bytes differs. -/
theorem bytesEq_iff {a b : List Byte} (h : a.length = b.length) : bytesEq a b = true ↔ a = b := by
  rw [bytesEq, allZero_iff]
  induction a generalizing b with
  | nil => simp [List.length_eq_zero_iff.1 h.symm, le]
  | cons x a ih =>
    obtain _ | ⟨y, b⟩ := b
    · cases h
    · have hxy : (x ^^^ y).toNat = 0 ↔ x = y :=
        (BitVec.toNat_inj (y := 0)).trans BitVec.xor_eq_zero_iff
      have := ih (Nat.succ.inj h)
      rw [List.zipWith_cons_cons, le, List.cons.injEq, ← hxy, ← this]
      omega

/-- `fe_is_zero` (R163). -/
theorem feIsZero_eq {x : Fe} (h : x.Below 54) : feIsZero x = decide (x.fval = 0) := by
  rw [Bool.eq_iff_iff, feIsZero, allZero_iff, le_feToBytes h, decide_eq_true_iff]

/-- `fe_ct_eq` (R163). -/
theorem feCtEq_eq {x y : Fe} (hx : x.Below 54) (hy : y.Below 54) : feCtEq x y = decide (x.fval = y.fval) := by
  rw [Bool.eq_iff_iff, feCtEq, bytesEq_iff (by simp), decide_eq_true_iff]
  refine ⟨fun h => ?_, fun h => by rw [feToBytes_eq hx, feToBytes_eq hy, h]⟩
  rw [← le_feToBytes hx, h, le_feToBytes hy]

theorem feCtEq_iff {x y : Fe} {u v : GF} (hx : x.Is u) (hy : y.Is v) : feCtEq x y = true ↔ u = v := by
  rw [feCtEq_eq hx.1 hy.1, decide_eq_true_iff, ← Fe.gf_eq_iff, hx.2, hy.2]

/-- The negation of a value that is not 0, as an integer (R155). -/
theorem feNeg_fval {x : Fe} (h : x.Below 54) (h0 : x.fval ≠ 0) : (feNeg x).fval = p - x.fval := by
  have hsum : (((feNeg x).fval + x.fval : Nat) : GF) = 0 := by
    rw [Nat.cast_add]
    exact (congrArg (· + x.gf) (feNeg_gf x h)).trans (neg_add_cancel _)
  obtain ⟨k, hk⟩ := (ZMod.natCast_eq_zero_iff _ _).1 hsum
  have h1 := (feNeg x).fval_lt
  have h2 := x.fval_lt
  obtain rfl : k = 1 := by
    have : 0 < k := Nat.pos_of_ne_zero fun h => by subst h; omega
    have : k < 2 := Nat.lt_of_mul_lt_mul_left (a := p) (by omega)
    omega
  omega

end Sys2Proof.Machine

/-! SUPPORT. The square root of a ratio (41_field.md R165). With `w = u v^7` the candidate root `r` has
`v r^2 = u w^((p-1)/4)`, whose square is `u^2 w^((p-1)/2)`: by Euler's criterion `v r^2` is `u` or `-u` where `u/v` is a
square, and `i u` or `-i u` where it is not. -/
namespace Sys2Proof.Machine

/-! ### The candidate root over GF(p) -/

/-- The root of −1, SQRT_M1 (41_field.md R160). -/
def gfI : GF := feSqrtM1.gf

theorem gfI_sq : gfI ^ 2 = -1 := by
  have h := (gf_natCast_eq_iff (feSqrtM1.fval ^ 2 + 1) 0).2 (by decide)
  push_cast at h
  exact eq_neg_of_add_eq_zero_left h

theorem gf_two_ne_zero : (2 : GF) ≠ 0 := fun h =>
  absurd ((gf_natCast_eq_iff 2 0).1 (by exact_mod_cast h)) (by decide)

/-- The value of `sqrtRoot`. -/
def gfRoot (u v : GF) : GF := u * v ^ 3 * (u * v ^ 7) ^ (2 ^ 252 - 3)

/-- The value of `sqrtCheck`. -/
def gfCheck (u v : GF) : GF := v * gfRoot u v ^ 2

theorem gfCheck_eq (u v : GF) : gfCheck u v = u * (u * v ^ 7) ^ (2 ^ 253 - 5) := by
  have hexp : 2 ^ 253 - 5 = 1 + (2 ^ 252 - 3) * 2 := by norm_num
  rw [gfCheck, gfRoot, hexp]
  generalize 2 ^ 252 - 3 = e
  rw [pow_add, pow_mul]
  ring

/-- `u v^7` is a square exactly where `u/v` is: they differ by the square of `v^4`. -/
theorem isSquare_mul_pow_seven_iff {v : GF} (hv : v ≠ 0) (u : GF) :
    IsSquare (u * v ^ 7) ↔ ∃ r : GF, r ^ 2 * v = u := by
  have := Fact.mk p_prime
  constructor
  · rintro ⟨t, ht⟩
    refine ⟨t / v ^ 4, ?_⟩
    field_simp
    linear_combination -ht
  · rintro ⟨r, rfl⟩
    exact ⟨r * v ^ 4, by ring⟩

/-- Euler's criterion, on the candidate root. -/
theorem gfCheck_sq {u v : GF} (hu : u ≠ 0) (hv : v ≠ 0) :
    ((∃ r : GF, r ^ 2 * v = u) ∧ gfCheck u v ^ 2 = u ^ 2) ∨
      ((¬∃ r : GF, r ^ 2 * v = u) ∧ gfCheck u v ^ 2 = -u ^ 2) := by
  have := Fact.mk p_prime
  have hw : u * v ^ 7 ≠ 0 := mul_ne_zero hu (pow_ne_zero 7 hv)
  have hhalf : (2 ^ 253 - 5) * 2 = p / 2 := by decide
  have hsq : gfCheck u v ^ 2 = u ^ 2 * (u * v ^ 7) ^ (p / 2) := by rw [gfCheck_eq, mul_pow, ← pow_mul, hhalf]
  rw [← isSquare_mul_pow_seven_iff hv, ZMod.euler_criterion p hw, hsq]
  obtain h | h := ZMod.pow_div_two_eq_neg_one_or_one p hw
  · exact .inl ⟨h, by rw [h, mul_one]⟩
  · refine .inr ⟨fun h1 => ?_, by rw [h, mul_neg_one]⟩
    exact gf_two_ne_zero (by linear_combination h - h1)

theorem gfRoot_of_zero {u v : GF} (h : u = 0 ∨ v = 0) : gfRoot u v = 0 := by
  obtain rfl | rfl := h <;> simp [gfRoot]

theorem gfCheck_of_zero {u v : GF} (h : u = 0 ∨ v = 0) : gfCheck u v = 0 := by
  rw [gfCheck, gfRoot_of_zero h]
  ring

/-- The candidate matches `u` or `-u` exactly where `u/v` is a square: `is_valid` (R165). -/
theorem gfCheck_eq_or_neg_iff {u v : GF} (hv : v ≠ 0) :
    (gfCheck u v = u ∨ gfCheck u v = -u) ↔ ∃ r : GF, r ^ 2 * v = u := by
  have := Fact.mk p_prime
  rw [← sq_eq_sq_iff_eq_or_eq_neg]
  obtain rfl | hu := eq_or_ne u 0
  · simp only [gfCheck_of_zero (.inl rfl), true_iff]
    exact ⟨0, by ring⟩
  · obtain ⟨hr, hc⟩ | ⟨hr, hc⟩ := gfCheck_sq hu hv
    · simp only [hc, hr]
    · have hne : -u ^ 2 ≠ u ^ 2 := fun h =>
        mul_ne_zero gf_two_ne_zero (pow_ne_zero 2 hu) (by linear_combination -h)
      simp only [hc, hr, hne]

/-- Otherwise it matches `i u` or `-i u`. -/
theorem gfCheck_eq_gfI_mul {u v : GF} (hv : v ≠ 0) (h : ¬(gfCheck u v = u ∨ gfCheck u v = -u)) :
    gfCheck u v = gfI * u ∨ gfCheck u v = -(gfI * u) := by
  have := Fact.mk p_prime
  have hu : u ≠ 0 := fun h0 => h (.inl ((gfCheck_of_zero (.inl h0)).trans h0.symm))
  rw [gfCheck_eq_or_neg_iff hv] at h
  obtain ⟨hr, -⟩ | ⟨-, hc⟩ := gfCheck_sq hu hv
  · exact absurd hr h
  · rw [← sq_eq_sq_iff_eq_or_eq_neg, hc]
    linear_combination -u ^ 2 * gfI_sq

/-- The candidate matches `-u` or `-i u`: where it is multiplied by `i` (R165). -/
def GfFlips (u v : GF) : Prop := gfCheck u v = -u ∨ gfCheck u v = -u * gfI

/-! ### `fe_sqrt_ratio_i` -/

section
variable {x y : Fe} (hx : x.Below 54) (hy : y.Below 54)
include hx hy

theorem sqrtRoot_is : (sqrtRoot x y).Is (gfRoot x.gf y.gf) := by
  have ix := Fe.is_self hx
  have iy := Fe.is_self hy
  have i3 := feMul_is (feSq_is iy) iy
  have i7 := feMul_is ix (feMul_is (feSq_is i3) iy)
  have ip := fePowP58_is _ i7.1
  have h := feMul_is (feMul_is ix i3) ⟨ip.1, ip.2.trans (congrArg (· ^ (2 ^ 252 - 3)) i7.2)⟩
  have hv : x.gf * (y.gf ^ 2 * y.gf) * (x.gf * ((y.gf ^ 2 * y.gf) ^ 2 * y.gf)) ^ (2 ^ 252 - 3) = gfRoot x.gf y.gf := by
    rw [gfRoot]
    congr 2
    all_goals ring
  exact ⟨h.1, h.2.trans hv⟩

theorem sqrtCheck_is : (sqrtCheck x y).Is (gfCheck x.gf y.gf) := feMul_is (Fe.is_self hy) (feSq_is (sqrtRoot_is hx hy))

theorem feSqrtRatio_fst_iff :
    (feSqrtRatio x y).1 = true ↔ gfCheck x.gf y.gf = x.gf ∨ gfCheck x.gf y.gf = -x.gf := by
  have hc := sqrtCheck_is hx hy
  have ix := Fe.is_self hx
  rw [feSqrtRatio_eq, Bool.or_eq_true, feCtEq_iff hc ix, feCtEq_iff hc (feNeg_is ix)]

/-- The candidate is multiplied by `i` where it has to be (R165). -/
theorem sqrtPick_cases :
    (GfFlips x.gf y.gf ∧ (sqrtPick x y).Is (gfI * gfRoot x.gf y.gf)) ∨
      (¬GfFlips x.gf y.gf ∧ (sqrtPick x y).Is (gfRoot x.gf y.gf)) := by
  have hc := sqrtCheck_is hx hy
  have hr := sqrtRoot_is hx hy
  have hn := feNeg_is (Fe.is_self hx)
  have hi : feSqrtM1.Is gfI := ⟨by decide, rfl⟩
  have hcond : (feCtEq (sqrtCheck x y) (feNeg x) || feCtEq (sqrtCheck x y) (feMul (feNeg x) feSqrtM1)) = true ↔
      GfFlips x.gf y.gf := by
    rw [GfFlips, Bool.or_eq_true, feCtEq_iff hc hn, feCtEq_iff hc (feMul_is hn hi)]
  rw [sqrtPick, feSelect_eq, ← hcond]
  split
  · next h => exact .inl ⟨h, feMul_is hi hr⟩
  · next h => exact .inr ⟨h, hr⟩

theorem sqrtPick_below : (sqrtPick x y).Below 54 := by
  obtain ⟨-, h⟩ | ⟨-, h⟩ := sqrtPick_cases hx hy <;> exact h.1

/-- The root is the even one of the two with its square (R165). -/
theorem feSqrtRatio_snd_even_and_sign : (feSqrtRatio x y).2.fval % 2 = 0 ∧
    ((feSqrtRatio x y).2.gf = (sqrtPick x y).gf ∨ (feSqrtRatio x y).2.gf = -(sqrtPick x y).gf) := by
  have hb := sqrtPick_below hx hy
  rw [feSqrtRatio_eq, feSelect_eq, feIsNegative_eq hb]
  dsimp only
  split
  · next h =>
    have hodd : (sqrtPick x y).fval % 2 = 1 := of_decide_eq_true h
    have hp : p % 2 = 1 := by decide
    have hlt := (sqrtPick x y).fval_lt
    refine ⟨?_, .inr (feNeg_gf _ hb)⟩
    rw [feNeg_fval hb (by omega)]
    omega
  · next h =>
    have heven : ¬(sqrtPick x y).fval % 2 = 1 := fun h1 => h (decide_eq_true h1)
    exact ⟨by omega, .inl rfl⟩

theorem feSqrtRatio_snd_sq : (feSqrtRatio x y).2.gf ^ 2 = (sqrtPick x y).gf ^ 2 := by
  obtain ⟨-, h | h⟩ := feSqrtRatio_snd_even_and_sign hx hy
  · rw [h]
  · rw [h, neg_sq]

theorem feSqrtRatio_of_zero (h0 : y.gf = 0) :
    (feSqrtRatio x y).2.gf = 0 ∧ ((feSqrtRatio x y).1 = true ↔ x.gf = 0) := by
  have := Fact.mk p_prime
  have hpick : (sqrtPick x y).gf = 0 := by
    have hroot := gfRoot_of_zero (u := x.gf) (.inr h0)
    obtain ⟨-, -, h⟩ | ⟨-, -, h⟩ := sqrtPick_cases hx hy
    · rw [h, hroot, mul_zero]
    · rw [h, hroot]
  refine ⟨pow_eq_zero_iff two_ne_zero |>.1 ?_, ?_⟩
  · rw [feSqrtRatio_snd_sq hx hy, hpick, zero_pow two_ne_zero]
  · rw [feSqrtRatio_fst_iff hx hy, gfCheck_of_zero (.inr h0), eq_comm, zero_eq_neg, or_self]

theorem feSqrtRatio_fst_iff_square (h0 : y.gf ≠ 0) :
    (feSqrtRatio x y).1 = true ↔ ∃ r : GF, r ^ 2 * y.gf = x.gf :=
  (feSqrtRatio_fst_iff hx hy).trans (gfCheck_eq_or_neg_iff h0)

/-- The square of the root times `v` is `u`, or `i u` where `u/v` is no square (R165). -/
theorem feSqrtRatio_snd_sq_mul (h0 : y.gf ≠ 0) :
    (feSqrtRatio x y).2.gf ^ 2 * y.gf = if (feSqrtRatio x y).1 then x.gf else gfI * x.gf := by
  have hok := feSqrtRatio_fst_iff hx hy
  have hpick := sqrtPick_cases hx hy
  have hother := gfCheck_eq_gfI_mul (u := x.gf) h0
  rw [feSqrtRatio_snd_sq hx hy]
  rw [GfFlips] at hpick
  rw [gfCheck] at hok hpick hother
  generalize gfRoot x.gf y.gf = r at hok hpick hother
  have hI := gfI_sq
  split
  · next h =>
    obtain ⟨hflip, -, hp⟩ | ⟨hflip, -, hp⟩ := hpick
    · rw [hp]
      obtain hc | hc := hflip
      · linear_combination y.gf * r ^ 2 * hI - hc
      · obtain hu | hu := hok.1 h
        · -- matching both `u` and `-i u` makes `u` its own negation
          linear_combination y.gf * r ^ 2 * hI - hu - (1 - gfI) * (hc - hu) - x.gf * hI
        · linear_combination y.gf * r ^ 2 * hI - hu
    · rw [hp, mul_comm]
      exact (hok.1 h).resolve_right fun hc => hflip (.inl hc)
  · next h =>
    obtain ⟨hflip, -, hp⟩ | ⟨hflip, -, hp⟩ := hpick
    · have hc := hflip.resolve_left fun hc => h (hok.2 (.inr hc))
      rw [hp]
      linear_combination y.gf * r ^ 2 * hI - hc
    · rw [hp, mul_comm]
      exact (hother (mt hok.2 h)).resolve_right fun hc => hflip (.inr (hc.trans (by ring)))

end

end Sys2Proof.Machine

/-! SUPPORT. The field commands (41_field.md R170 to R191) and the constants: that a well-formed command with its sources
held makes its writes, with the values of the lemmas above. -/
namespace Sys2Proof.Machine

/-! ### Field commands that complete (40_system_choice.md R130) -/

section
variable {s : State} {a b c d : RegNo} {x y : Fe} {k : Bool} {i : Instr}

theorem srcF_of_readF (hx : s.readF a = some x) : s.srcF a = .ok x := (source_ok_iff ..).2 hx

/-- A well-formed command of one field source makes its writes. -/
theorem exec_of_withF {f : Fe → List Write} (hwf : i.WellFormed s.params) (hi : writes i s = withF s a f)
    (hx : s.readF a = some x) : exec i s = .next (s.applyAll (f x)).retire := by
  refine exec_of_writes hwf (hi.trans ?_)
  rw [withF, srcF_of_readF hx]
  rfl

/-- A well-formed command of two field sources makes its writes. -/
theorem exec_of_withFF {f : Fe → Fe → List Write} (hwf : i.WellFormed s.params) (hi : writes i s = withFF s a b f)
    (hx : s.readF a = some x) (hy : s.readF b = some y) : exec i s = .next (s.applyAll (f x y)).retire := by
  refine exec_of_writes hwf (hi.trans ?_)
  rw [withFF, srcF_of_readF hx, srcF_of_readF hy]
  rfl

theorem exec_feCsel (hwf : (Instr.feCsel d a b c).WellFormed s.params) (hx : s.readF a = some x)
    (hy : s.readF b = some y) (hk : s.readC c = some k) :
    exec (.feCsel d a b c) s = .next (s.writeF d (feSelect x y k)).retire := by
  refine exec_of_writes (ws := [.f d (feSelect x y k)]) hwf ?_
  rw [writes, srcF_of_readF hx, srcF_of_readF hy, srcC_of_readC hk]
  rfl

theorem exec_feCassign (hwf : (Instr.feCassign d a c).WellFormed s.params) (hx : s.readF a = some x)
    (hy : s.readF d = some y) (hk : s.readC c = some k) :
    exec (.feCassign d a c) s = .next (s.writeF d (feCassign y x k)).retire := by
  refine exec_of_writes (ws := [.f d (feCassign y x k)]) hwf ?_
  rw [writes, srcF_of_readF hx, srcF_of_readF hy, srcC_of_readC hk]
  rfl

theorem exec_feCneg (hwf : (Instr.feCneg d c).WellFormed s.params) (hx : s.readF d = some x)
    (hk : s.readC c = some k) : exec (.feCneg d c) s = .next (s.writeF d (feCneg x k)).retire := by
  refine exec_of_writes (ws := [.f d (feCneg x k)]) hwf ?_
  rw [writes, srcF_of_readF hx, srcC_of_readC hk]
  rfl

end

/-! ### Results of the datapath -/

theorem fePow2k_succ_below53 (x : Fe) (n : Nat) : (fePow2k x (n + 1)).Below 53 := by
  rw [fePow2k, strictFe_eq]
  exact fePow2k_below53 (feSq_below53 x) n

theorem feCneg_is {x : Fe} {v : GF} (h : x.Is v) (k : Bool) : (feCneg x k).Is (if k then -v else v) := by
  rw [feCneg_eq]
  split
  · exact feNeg_is h
  · exact h

/-- `inv` is the inverse, by Fermat's little theorem (R181; 00_scope.md R8). -/
theorem mul_gfInv {x : GF} (h : x ≠ 0) : x * gfInv x = 1 := by
  have := Fact.mk p_prime
  have hexp : p - 2 + 1 = p - 1 := by decide
  rw [gfInv, ← pow_succ', hexp, ZMod.pow_card_sub_one_eq_one h]

theorem gfInv_zero : gfInv 0 = 0 := zero_pow (by decide)

/-! ### The constants (R160; 43_point.md R262) -/

/-- The values of R160, by id. -/
def feConstValues : List Nat :=
  [0, 1, p - 1, 37095705934669439343138083508754565189542113879843219016388785533085940283555,
    16295367250680780974490674513165176452449235426866156013048779062215315747161,
    19681161376707505956807079304988542015446066515923890162744021073123829784752, 486662, p - 486662]

theorem map_ofValue_feConstValues : feConstValues.map Fe.ofValue = (List.range 8).map feConstOf := by decide

theorem feConstOf_eq_ofValue {k : Nat} (hk : k ≤ 7) :
    ∃ v, feConstValues[k]? = some v ∧ feConstOf k = Fe.ofValue v := by
  have hget := congrArg (·[k]?) map_ofValue_feConstValues
  simp only [List.getElem?_map, List.getElem?_range (show k < 8 by omega), Option.map_some,
    Option.map_eq_some_iff] at hget
  obtain ⟨v, hv, he⟩ := hget
  exact ⟨v, hv, he.symm⟩

theorem Fe.gf_of_fval {x : Fe} {n : Nat} (h : x.fval = n) : x.gf = (n : GF) := congrArg _ h

theorem extIdentity_gf : extIdentity.gf = ⟨0, 1, 1, 0⟩ := by
  have h0 : feZero.gf = (0 : Nat) := Fe.gf_of_fval (by decide)
  have h1 : feOne.gf = (1 : Nat) := Fe.gf_of_fval (by decide)
  rw [Ext.gf, extIdentity, h0, h1, Nat.cast_zero, Nat.cast_one]

/-- The basepoint's components (43_point.md R262). -/
theorem extBase_gf : extBase.gf =
    ⟨15112221349535400772501151409588531511454012693041857206046113283949847762202,
      46316835694926478169428394003475163141307993866256225615783033603165251855960, 1,
      46827403850823179245072216630277197565144205554125654976674165829533817101731⟩ := by
  have hX := Fe.gf_of_fval (x := extBase.X)
    (n := 15112221349535400772501151409588531511454012693041857206046113283949847762202) (by decide)
  have hY := Fe.gf_of_fval (x := extBase.Y)
    (n := 46316835694926478169428394003475163141307993866256225615783033603165251855960) (by decide)
  have hZ := Fe.gf_of_fval (x := extBase.Z) (n := 1) (by decide)
  have hT := Fe.gf_of_fval (x := extBase.T)
    (n := 46827403850823179245072216630277197565144205554125654976674165829533817101731) (by decide)
  rw [Ext.gf, hX, hY, hZ, hT, Nat.cast_one, Nat.cast_ofNat, Nat.cast_ofNat, Nat.cast_ofNat]

/-! ### The statements -/

/-- Settles O19: the load reads the integer of the slot, the bytes stored are those of the value and are read back. -/
theorem fieldLoadStore : Obligations.FieldLoadStore := by
  unfold Obligations.FieldLoadStore
  refine ⟨fun s d imm hwf => ?_, fun s a imm x hwf hx hb => ⟨?_, fun hm => ?_⟩⟩
  · refine ⟨feFromBytes (s.readSlots imm 1), feFromBytes_below _, ?_, exec_of_writes hwf rfl⟩
    rw [feFromBytes_eq, Fe.gf_ofValue (Nat.mod_lt _ (by decide))]
    rfl
  · rw [← feToBytes_eq hb]
    exact exec_of_withF hwf rfl hx
  · have hread := memRead_memWrite_self hm (slotAddr imm) (leBytes 32 x.fval)
    rw [leBytes_length] at hread
    have hlt : x.fval < 256 ^ 32 := x.fval_lt.trans (p_lt.trans (by norm_num))
    rw [State.writeSlots_oram, ← slotAddr, hread, le_leBytes, Nat.mod_eq_of_lt hlt]

/-- Settles O21: FE_RED writes the canonical limbs of the value. -/
theorem fieldMove : Obligations.FieldMove := by
  unfold Obligations.FieldMove
  intro s d a x hd ha hx
  have hregs : decide (d.toNat < s.params.nf ∧ a.toNat < s.params.nf) = true := decide_eq_true ⟨hd, ha⟩
  refine ⟨exec_of_withF (i := .feMov d a) hregs rfl hx, fun hb => ⟨x.canon, Fe.ofValue_below _, ?_, ?_, ?_⟩⟩
  · rw [Fe.canon, Fe.ofValue_limbSum (x.fval_lt.trans p_lt)]
    exact x.fval_lt
  · exact (Fe.gf_eq_iff ..).2 x.canon_fval
  · rw [← feFromBytes_feToBytes hb]
    exact exec_of_withF (i := .feRed d a) hregs rfl hx

/-- Settles O22: each result is that of its datapath operation on loose limbs. -/
theorem fieldRing : Obligations.FieldRing := by
  unfold Obligations.FieldRing
  intro s d a b x y hd ha hb hx hy hbx hby
  have h2 : decide (d.toNat < s.params.nf ∧ a.toNat < s.params.nf) = true := decide_eq_true ⟨hd, ha⟩
  have h3 : decide (d.toNat < s.params.nf ∧ a.toNat < s.params.nf ∧ b.toNat < s.params.nf) = true :=
    decide_eq_true ⟨hd, ha, hb⟩
  exact ⟨⟨_, feAdd_below53 x y, feAdd_gf x y hbx hby, exec_of_withFF (i := .feAdd d a b) h3 rfl hx hy⟩,
    ⟨_, feSub_below53 x y, feSub_gf x y hbx hby, exec_of_withFF (i := .feSub d a b) h3 rfl hx hy⟩,
    ⟨_, feNeg_below53 x, feNeg_gf x hbx, exec_of_withF (i := .feNeg d a) h2 rfl hx⟩,
    ⟨_, feMul_below53 x y, feMul_gf x y hbx hby, exec_of_withFF (i := .feMul d a b) h3 rfl hx hy⟩,
    ⟨_, feSq_below53 x, feSq_gf x hbx, exec_of_withF (i := .feSq d a) h2 rfl hx⟩,
    ⟨_, feSq2_below x, feSq2_gf x hbx, exec_of_withF (i := .feSq2 d a) h2 rfl hx⟩⟩

/-- Settles O23: the exponents of the chains add up to those of the rules; one squaring already bounds the limbs of
FE_POW2K. -/
theorem fieldPowers : Obligations.FieldPowers := by
  unfold Obligations.FieldPowers
  intro s d a b imm x hx hbx
  refine ⟨fun hwf => ?_, fun hwf => ?_, fun hwf => ?_, fun hwf => ?_⟩
  · obtain ⟨-, -, hpos, -⟩ := of_decide_eq_true hwf
    obtain ⟨n, hn⟩ := Nat.exists_eq_succ_of_ne_zero (Nat.pos_iff_ne_zero.1 hpos)
    exact ⟨_, hn ▸ fePow2k_succ_below53 x n, fePow2k_gf x _ hbx, exec_of_withF hwf rfl hx⟩
  · exact ⟨_, feInvert_below53 x, (feInvert_is x hbx).2, exec_of_withF hwf rfl hx⟩
  · exact ⟨_, fePowP58_below53 x, (fePowP58_is x hbx).2, exec_of_withF hwf rfl hx⟩
  · obtain ⟨⟨-, hz⟩, -, hy⟩ := fePow22501_is x hbx
    obtain ⟨hz53, hy53⟩ := fePow22501_below53 x
    exact ⟨_, _, hz53, hy53, hz, hy, exec_of_withF hwf rfl hx⟩

/-- Settles O24: FE_INV is the power `p - 2`, which Fermat's little theorem makes the inverse. -/
theorem fieldInverse : Obligations.FieldInverse := by
  unfold Obligations.FieldInverse
  intro s d a x hwf hx hbx
  have hz : (feInvert x).gf = gfInv x.gf := (feInvert_is x hbx).2
  exact ⟨feInvert x, exec_of_withF hwf rfl hx, fun h0 => by rw [hz, mul_gfInv h0],
    fun h0 => by rw [hz, h0, gfInv_zero]⟩

/-- Settles O25, from the candidate root and Euler's criterion. -/
theorem fieldSqrtRatio : Obligations.FieldSqrtRatio := by
  unfold Obligations.FieldSqrtRatio
  intro s d a b c x y hwf hx hy hbx hby
  refine ⟨(feSqrtRatio x y).2, (feSqrtRatio x y).1, feSqrtRatio_below53 x y, (feSqrtRatio_snd_even_and_sign hbx hby).1,
    exec_of_withFF hwf rfl hx hy, feSqrtRatio_of_zero hbx hby, fun h0 => ?_⟩
  have hsq := feSqrtRatio_snd_sq_mul hbx hby h0
  refine ⟨feSqrtRatio_fst_iff_square hbx hby h0, fun hok => ?_, fun hok => ?_⟩
  · rw [hsq, hok, if_pos rfl]
  · rw [hsq, hok, if_neg Bool.false_ne_true]
    rfl

/-- Settles O26: the masks of the selection keep the first operand for choice 0. -/
theorem fieldSelect : Obligations.FieldSelect := by
  unfold Obligations.FieldSelect
  refine ⟨fun s d a b c x y k hwf hx hy hk => ?_, fun s d a c x z k hwf hx hz hk => ?_,
    fun s d c z k hwf hz hk hbz => ?_⟩
  · rw [exec_feCsel hwf hx hy hk, feSelect_eq]
    cases k <;> rfl
  · rw [exec_feCassign hwf hx hz hk, feCassign_eq]
  · obtain ⟨hb, hv⟩ := feCneg_is (Fe.is_self hbz) k
    exact ⟨_, hb, hv, fun h0 => by rw [feCneg_eq, h0, if_neg Bool.false_ne_true], exec_feCneg hwf hz hk⟩

/-- Settles O27: the tests of the bytes are tests of the canonical value. -/
theorem fieldTests : Obligations.FieldTests := by
  unfold Obligations.FieldTests
  intro s d a b x y hd ha hb hx hy hbx hby
  have h2 : decide (d.toNat < s.params.nc ∧ a.toNat < s.params.nf) = true := decide_eq_true ⟨hd, ha⟩
  have h3 : decide (d.toNat < s.params.nc ∧ a.toNat < s.params.nf ∧ b.toNat < s.params.nf) = true :=
    decide_eq_true ⟨hd, ha, hb⟩
  rw [← feCtEq_eq hbx hby, ← feIsNegative_eq hbx, ← feIsZero_eq hbx]
  exact ⟨exec_of_withFF (i := .feEq d a b) h3 rfl hx hy, exec_of_withF (i := .feIsneg d a) h2 rfl hx,
    exec_of_withF (i := .feIszero d a) h2 rfl hx⟩

/-- Settles O20: the limbs of each constant are those of its value. -/
theorem constants : Obligations.Constants := by
  unfold Obligations.Constants
  refine ⟨fun s d imm hwf => ?_, fun s d hd => ⟨⟨extIdentity, by decide, extIdentity_gf, ?_⟩, extBase, by decide,
    extBase_gf, ?_⟩, fun s d a q hwf hq => ?_⟩
  · obtain ⟨-, himm⟩ := of_decide_eq_true hwf
    obtain ⟨v, hv, he⟩ := feConstOf_eq_ofValue himm
    exact ⟨v, hv, he ▸ exec_of_writes hwf rfl⟩
  · exact exec_of_writes (i := .ptIdent d) (decide_eq_true hd) rfl
  · exact exec_of_writes (i := .ptBase d) (decide_eq_true hd) rfl
  · have hsrc : s.srcP a = .ok q := (source_ok_iff ..).2 hq
    refine exec_of_writes (ws := [.p d (some q)]) hwf ?_
    rw [writes, hsrc]
    rfl

end Sys2Proof.Machine

/-! SUPPORT. The values of the scalar datapath (42_scalar.md R214 to R221): the Montgomery reduction divides by
`R = 2^260` modulo `l`, and the composite operations answer the residue of their rule. -/
namespace Sys2Proof.Machine

/-! ### Montgomery reduction (R220) -/

/-- LFACTOR makes the low limb vanish: `L[0] * LFACTOR = -1` modulo 2^52. -/
theorem redQ_eq (t : Nat) : redQ t = t * lfactor % 2 ^ 52 := by
  rw [redQ, and_M52, u64_mod_52, u64, Nat.mul_mod, Nat.mod_mod_of_dvd t (by decide : 2 ^ 52 ∣ 2 ^ 64), ← Nat.mul_mod]

/-- `part1` is exact: the quotient limb makes its sum a multiple of 2^52. -/
theorem redC_eq {t : Nat} (h : t < 2 ^ 127) : 2 ^ 52 * redC t = t + redQ t * 0x0002631a5cf5d3ed := by
  have hq := redQ_lt t
  have hnarrow : u128 (t + redQ t * scL.s0.toNat) = t + redQ t * 0x0002631a5cf5d3ed := by
    rw [scL_limbs.1]
    exact Nat.mod_eq_of_lt (by omega)
  have hdvd : (t + redQ t * 0x0002631a5cf5d3ed) % 2 ^ 52 = 0 := by
    rw [redQ_eq]
    unfold lfactor
    omega
  rw [redC, hnarrow, Nat.shiftRight_eq_div_pow]
  exact Nat.mul_div_cancel' (Nat.dvd_of_mod_eq_zero hdvd)

/-- One `part1` of a sum that is not narrowed: a quotient limb and a carry. -/
theorem redStep {t : Nat} (h : t < 2 ^ 127) :
    ∃ q c, redQ (u128 t) = q ∧ redC (u128 t) = c ∧ q < 2 ^ 52 ∧ 2 ^ 52 * c = t + q * 0x0002631a5cf5d3ed := by
  have hnarrow : u128 t = t := Nat.mod_eq_of_lt (h.trans (by decide))
  rw [hnarrow]
  exact ⟨_, _, rfl, rfl, redQ_lt t, redC_eq h⟩

/-- Columns a sum of which with the products of the reduction is not narrowed. -/
def Columns.Small (z : Columns) : Prop :=
  z.z0 < 2 ^ 107 ∧ z.z1 < 2 ^ 107 ∧ z.z2 < 2 ^ 107 ∧ z.z3 < 2 ^ 107 ∧ z.z4 < 2 ^ 107 ∧ z.z5 < 2 ^ 107 ∧
    z.z6 < 2 ^ 107 ∧ z.z7 < 2 ^ 107 ∧ z.z8 < 2 ^ 107

/-- The reduction subtracts `L` once from a sum `r` with `2^260 r = z + m l`. -/
theorem scMontgomeryReduce_eq {z : Columns} (hz : z.Small) (h : z.value < 2 ^ 260 * ell) :
    ∃ (r : Unpacked) (m : Nat), r.Norm ∧ 2 ^ 260 * r.value = z.value + m * ell ∧
      scMontgomeryReduce z = scSub52 r scL := by
  obtain ⟨z0, z1, z2, z3, z4, z5, z6, z7, z8⟩ := hz
  obtain ⟨-, l1, l2, -, l4⟩ := scL_limbs
  have exact128 {t : Nat} (ht : t < 2 ^ 127) : u128 t = t := Nat.mod_eq_of_lt (ht.trans (by decide))
  simp only [scMontgomeryReduce, l1, l2, l4, and_M52, u64_mod_52, Nat.shiftRight_eq_div_pow]
  obtain ⟨n0, c0, hn, hc, q0, r0⟩ := redStep (t := z.z0) (by omega)
  rw [hn, hc]
  obtain ⟨n1, c1, hn, hc, q1, r1⟩ := redStep (t := c0 + z.z1 + n0 * 0x000dea2f79cd6581) (by omega)
  rw [hn, hc]
  obtain ⟨n2, c2, hn, hc, q2, r2⟩ := redStep (t := c1 + z.z2 + n0 * 0x000000000014def9 + n1 * 0x000dea2f79cd6581)
    (by omega)
  rw [hn, hc]
  obtain ⟨n3, c3, hn, hc, q3, r3⟩ := redStep (t := c2 + z.z3 + n1 * 0x000000000014def9 + n2 * 0x000dea2f79cd6581)
    (by omega)
  rw [hn, hc]
  obtain ⟨n4, c4, hn, hc, q4, r4⟩ := redStep
    (t := c3 + z.z4 + n0 * 0x0000100000000000 + n2 * 0x000000000014def9 + n3 * 0x000dea2f79cd6581) (by omega)
  rw [hn, hc, exact128 (t := c4 + z.z5 + n1 * 0x0000100000000000 + n3 * 0x000000000014def9 + n4 * 0x000dea2f79cd6581)
    (by omega)]
  generalize h5 : c4 + z.z5 + n1 * 0x0000100000000000 + n3 * 0x000000000014def9 + n4 * 0x000dea2f79cd6581 = t5
  rw [exact128 (t := t5 / 2 ^ 52 + z.z6 + n2 * 0x0000100000000000 + n4 * 0x000000000014def9) (by omega)]
  generalize h6 : t5 / 2 ^ 52 + z.z6 + n2 * 0x0000100000000000 + n4 * 0x000000000014def9 = t6
  rw [exact128 (t := t6 / 2 ^ 52 + z.z7 + n3 * 0x0000100000000000) (by omega)]
  generalize h7 : t6 / 2 ^ 52 + z.z7 + n3 * 0x0000100000000000 = t7
  rw [exact128 (t := t7 / 2 ^ 52 + z.z8 + n4 * 0x0000100000000000) (by omega)]
  generalize h8 : t7 / 2 ^ 52 + z.z8 + n4 * 0x0000100000000000 = t8
  -- `omega` is given the equations of the steps alone for the sum, and only the bounds for the quotient
  clear l1 l2 l4 z0 z1 z2 z3 z4 z5 z6 z7 z8
  have hm : n0 + n1 * 2 ^ 52 + n2 * 2 ^ 104 + n3 * 2 ^ 156 + n4 * 2 ^ 208 < 2 ^ 260 := by
    clear r0 r1 r2 r3 r4 h5 h6 h7 h8
    omega
  have hsum : 2 ^ 260 * (t5 % 2 ^ 52 + t6 % 2 ^ 52 * 2 ^ 52 + t7 % 2 ^ 52 * 2 ^ 104 + t8 % 2 ^ 52 * 2 ^ 156 +
      t8 / 2 ^ 52 * 2 ^ 208) =
      z.value + (n0 + n1 * 2 ^ 52 + n2 * 2 ^ 104 + n3 * 2 ^ 156 + n4 * 2 ^ 208) * ell := by
    clear h hm q0 q1 q2 q3 q4
    simp only [Columns.value, ell]
    omega
  clear r0 r1 r2 r3 r4 h5 h6 h7 h8 q0 q1 q2 q3 q4
  generalize n0 + n1 * 2 ^ 52 + n2 * 2 ^ 104 + n3 * 2 ^ 156 + n4 * 2 ^ 208 = m at hm hsum
  have htop : t8 / 2 ^ 52 < 2 ^ 52 := by
    simp only [ell] at h hsum
    omega
  obtain ⟨hnorm, hv⟩ := Unpacked.ofLimbs_norm (n0 := t5 % 2 ^ 52) (n1 := t6 % 2 ^ 52) (n2 := t7 % 2 ^ 52)
    (n3 := t8 % 2 ^ 52) (n4 := t8 / 2 ^ 52) (by omega) (by omega) (by omega) (by omega) htop
  exact ⟨_, _, hnorm, hv ▸ hsum, rfl⟩

/-- The Montgomery reduction divides by `2^260` modulo `l`. -/
theorem scMontgomeryReduce_modEq {z : Columns} (hz : z.Small) (h : z.value < 2 ^ 260 * ell) :
    (scMontgomeryReduce z).value * 2 ^ 260 ≡ z.value [MOD ell] := by
  obtain ⟨r, m, hr, hsum, he⟩ := scMontgomeryReduce_eq hz h
  obtain ⟨-, hv⟩ := scSub52_spec hr scL_norm (by rw [scL_value]; omega)
  have hsub : (scSub52 r scL).value ≡ r.value [MOD ell] := by
    rw [hv, scL_value]
    split
    · rw [Nat.add_sub_cancel]
    · next hge => exact (Nat.sub_modulus_modEq_iff (by omega)).2 rfl
  calc (scMontgomeryReduce z).value * 2 ^ 260
      ≡ 2 ^ 260 * r.value [MOD ell] := by rw [he, mul_comm]; exact hsub.mul_left _
    _ = z.value + m * ell := hsum
    _ ≡ z.value [MOD ell] := by simp [Nat.ModEq]

/-! ### Montgomery multiplication (R219, R221) -/

/-- A column of `k` products of limbs. -/
def IsColumn (k t : Nat) : Prop := t ≤ k * 2 ^ 104

theorem IsColumn.one {a b : Nat} (ha : a < 2 ^ 52) (hb : b < 2 ^ 52) : IsColumn 1 (a * b) := by
  have h := Nat.mul_le_mul ha.le hb.le
  rw [IsColumn]
  omega

theorem IsColumn.add {k t a b : Nat} (h : IsColumn k t) (ha : a < 2 ^ 52) (hb : b < 2 ^ 52) :
    IsColumn (k + 1) (t + a * b) := by
  rw [IsColumn, Nat.add_mul]
  exact Nat.add_le_add h (IsColumn.one ha hb)

theorem IsColumn.lt {k t : Nat} (h : IsColumn k t) (hk : k ≤ 5) : t < 2 ^ 107 := by
  have h5 := h.trans (Nat.mul_le_mul_right _ hk)
  omega

theorem IsColumn.u128_eq {k t : Nat} (h : IsColumn k t) (hk : k ≤ 5) : u128 t = t :=
  Nat.mod_eq_of_lt ((h.lt hk).trans (by decide))

/-- The columns of a product of normal scalars are not narrowed: they are those of the integer product (R219). -/
theorem scMulInternal_spec {x y : Unpacked} (hx : x.Norm) (hy : y.Norm) :
    (scMulInternal x y).Small ∧ (scMulInternal x y).value = x.value * y.value := by
  obtain ⟨x0, x1, x2, x3, x4⟩ := hx
  obtain ⟨y0, y1, y2, y3, y4⟩ := hy
  have c0 := IsColumn.one x0 y0
  have c1 := (IsColumn.one x0 y1).add x1 y0
  have c2 := ((IsColumn.one x0 y2).add x1 y1).add x2 y0
  have c3 := (((IsColumn.one x0 y3).add x1 y2).add x2 y1).add x3 y0
  have c4 := ((((IsColumn.one x0 y4).add x1 y3).add x2 y2).add x3 y1).add x4 y0
  have c5 := (((IsColumn.one x1 y4).add x2 y3).add x3 y2).add x4 y1
  have c6 := ((IsColumn.one x2 y4).add x3 y3).add x4 y2
  have c7 := (IsColumn.one x3 y4).add x4 y3
  have c8 := IsColumn.one x4 y4
  have hmul := columns_mul (2 ^ 52) x.s0.toNat x.s1.toNat x.s2.toNat x.s3.toNat x.s4.toNat y.s0.toNat y.s1.toNat
    y.s2.toNat y.s3.toNat y.s4.toNat
  simp only [← pow_mul, Nat.reduceMul] at hmul
  simp only [scMulInternal, Columns.Small, c0.u128_eq (by decide), c1.u128_eq (by decide), c2.u128_eq (by decide),
    c3.u128_eq (by decide), c4.u128_eq (by decide), c5.u128_eq (by decide), c6.u128_eq (by decide),
    c7.u128_eq (by decide), c8.u128_eq (by decide)]
  exact ⟨⟨c0.lt (by decide), c1.lt (by decide), c2.lt (by decide), c3.lt (by decide), c4.lt (by decide),
    c5.lt (by decide), c6.lt (by decide), c7.lt (by decide), c8.lt (by decide)⟩, hmul.symm⟩

/-- One Montgomery multiplication divides the product by `R` modulo `l` (R221). -/
theorem scMM_modEq {x y : Unpacked} (hx : x.Norm) (hy : y.Norm) (h : x.value * y.value < 2 ^ 260 * ell) :
    (scMM x y).value * 2 ^ 260 ≡ x.value * y.value [MOD ell] := by
  obtain ⟨hsmall, hv⟩ := scMulInternal_spec hx hy
  rw [← hv] at h ⊢
  exact scMontgomeryReduce_modEq hsmall h

/-- `R` has an inverse modulo `l`. -/
theorem modEq_of_mul_R {a b : Nat} (h : a * 2 ^ 260 ≡ b * 2 ^ 260 [MOD ell]) : a ≡ b [MOD ell] :=
  h.cancel_right_of_coprime (Nat.Coprime.pow_right 260 (by decide))

theorem scR_norm : scR.Norm := by unfold Unpacked.Norm; decide
theorem scRR_norm : scRR.Norm := by unfold Unpacked.Norm; decide
theorem two_pow_260_eq : 2 ^ 260 = 2 ^ 130 * 2 ^ 130 := by rw [← pow_add]
theorem scR_modEq : scR.value ≡ 2 ^ 260 [MOD ell] := by rw [two_pow_260_eq]; decide
theorem scRR_modEq : scRR.value ≡ 2 ^ 260 * 2 ^ 260 [MOD ell] := by rw [two_pow_260_eq]; decide

/-- A Montgomery multiplication by `R mod l` keeps the residue. -/
theorem scMM_scR_modEq {x : Unpacked} (hx : x.Norm) : (scMM x scR).value ≡ x.value [MOD ell] :=
  modEq_of_mul_R ((scMM_modEq hx scR_norm (Nat.mul_lt_mul'' hx.value_lt scR_lt)).trans (scR_modEq.mul_left _))

/-- A Montgomery multiplication by `R^2 mod l` multiplies by `R`. -/
theorem scMM_scRR_modEq {x : Unpacked} (hx : x.Norm) : (scMM x scRR).value ≡ x.value * 2 ^ 260 [MOD ell] := by
  refine modEq_of_mul_R ((scMM_modEq hx scRR_norm (Nat.mul_lt_mul'' hx.value_lt scRR_lt)).trans ?_)
  rw [mul_assoc]
  exact scRR_modEq.mul_left _

/-! ### The composite operations (R221) -/

/-- A canonical scalar packs to the residue it is congruent to. -/
theorem scPack_eq_mod {x : Unpacked} {n : Nat} (hx : x.Canonical) (h : x.value ≡ n [MOD ell]) :
    (scPack x).toNat = n % ell := by
  rw [scPack_toNat hx]
  exact (Nat.mod_eq_of_lt hx.2).symm.trans h

theorem scReduce_eq (a : Scalar) : (scReduce a).toNat = a.toNat % ell := by
  obtain ⟨hn, hv⟩ := scUnpack_spec a
  rw [← hv]
  exact scPack_eq_mod (scMM_canonical_of_norm hn scR_lt) (scMM_scR_modEq hn)

theorem scToMont_eq (a : Scalar) : (scToMont a).toNat = a.toNat * 2 ^ 260 % ell := by
  obtain ⟨hn, hv⟩ := scUnpack_spec a
  rw [← hv]
  exact scPack_eq_mod (scMM_canonical_of_norm hn scRR_lt) (scMM_scRR_modEq hn)

/-- The Montgomery product of two unpacked scalars. -/
theorem scMM_scUnpack_modEq (a b : Scalar) :
    (scMM (scUnpack a) (scUnpack b)).value * 2 ^ 260 ≡ a.toNat * b.toNat [MOD ell] := by
  obtain ⟨ha, va⟩ := scUnpack_spec a
  obtain ⟨hb, vb⟩ := scUnpack_spec b
  have h := scMM_modEq ha hb (scUnpack_mul_lt a b)
  rwa [va, vb] at h

theorem scMmul_modEq (a b : Scalar) : (scMmul a b).toNat * 2 ^ 260 ≡ a.toNat * b.toNat [MOD ell] := by
  rw [scMmul, scPack_toNat (scMM_canonical (scUnpack_mul_lt a b))]
  exact scMM_scUnpack_modEq a b

theorem scMul_eq (a b : Scalar) : (scMul a b).toNat = a.toNat * b.toNat % ell := by
  have hn := (scMM_canonical (scUnpack_mul_lt a b)).1
  exact scPack_eq_mod (scMM_canonical_of_norm hn scRR_lt) ((scMM_scRR_modEq hn).trans (scMM_scUnpack_modEq a b))

theorem scFromMont_modEq (a : Scalar) : (scFromMont a).toNat * 2 ^ 260 ≡ a.toNat [MOD ell] := by
  obtain ⟨⟨h0, h1, h2, h3, h4⟩, hv⟩ := scUnpack_spec a
  have ha := a.isLt
  rw [scFromMont]
  generalize hz : Columns.mk (scUnpack a).s0.toNat (scUnpack a).s1.toNat (scUnpack a).s2.toNat (scUnpack a).s3.toNat
    (scUnpack a).s4.toNat 0 0 0 0 = z
  have hval : z.value = a.toNat := by
    rw [← hv, ← hz, Columns.value, Unpacked.value]
    dsimp only
    omega
  have hsmall : z.Small := by
    rw [← hz, Columns.Small]
    dsimp only
    omega
  have hlt : z.value < 2 ^ 260 * ell := by
    have h260 : z.value < 2 ^ 260 := by omega
    exact h260.trans_le (Nat.le_mul_of_pos_right _ (by decide))
  rw [scPack_toNat (scMontgomeryReduce_canonical hlt), ← hval]
  exact scMontgomeryReduce_modEq hsmall hlt

/-- `sc_add52` adds modulo `l`. -/
theorem scAdd52_modEq {a b : Unpacked} (ha : a.Norm) (hb : b.Norm) (h : a.value + b.value < 2 ^ 260) :
    (scAdd52 a b).value ≡ a.value + b.value [MOD ell] := by
  rw [(scAdd52_spec ha hb h).2]
  split
  · rfl
  · exact (Nat.sub_modulus_modEq_iff (by omega)).2 rfl

theorem scAdd_eq (a b : Scalar) : (scAdd a b).toNat = (a.toNat + b.toNat) % ell := by
  obtain ⟨na, va⟩ := scUnpack_spec a
  obtain ⟨nb, vb⟩ := scUnpack_spec b
  have hlt : (scUnpack a).value + (scUnpack b).value < 2 ^ 260 := by
    have := a.isLt
    have := b.isLt
    omega
  have hn := (scAdd52_spec na nb hlt).1
  rw [← va, ← vb]
  exact scPack_eq_mod (scMM_canonical_of_norm hn scR_lt) ((scMM_scR_modEq hn).trans (scAdd52_modEq na nb hlt))

/-- `sc_sub52` of canonical scalars subtracts modulo `l`. -/
theorem scSub52_emod {a b : Unpacked} (ha : a.Canonical) (hb : b.Canonical) :
    ((scPack (scSub52 a b)).toNat : Int) = ((a.value : Int) - b.value) % ell := by
  have hpack := scPack_toNat (scSub52_canonical ha hb)
  obtain ⟨na, va⟩ := ha
  obtain ⟨nb, vb⟩ := hb
  rw [hpack, (scSub52_spec na nb (by omega)).2]
  split
  · rw [← Int.add_emod_right, Int.emod_eq_of_lt (by omega) (by omega)]
    omega
  · rw [Int.emod_eq_of_lt (by omega) (by omega)]
    omega

theorem scUnpack_scReduce_value (a : Scalar) : (scUnpack (scReduce a)).value = a.toNat % ell :=
  (scUnpack_spec _).2.trans (scReduce_eq a)

theorem scSub_eq (a b : Scalar) : ((scSub a b).toNat : Int) = ((a.toNat : Int) - b.toNat) % ell := by
  rw [scSub, scSub52_emod (scUnpack_scReduce_canonical a) (scUnpack_scReduce_canonical b), scUnpack_scReduce_value,
    scUnpack_scReduce_value, Int.natCast_mod, Int.natCast_mod, ← Int.sub_emod]

theorem scZero_canonical : scZero.Canonical := ⟨by unfold Unpacked.Norm; decide, by decide⟩

theorem scNeg_eq (a : Scalar) : (scNeg a).toNat = (ell - a.toNat % ell) % ell := by
  have hlt : a.toNat % ell < ell := Nat.mod_lt _ (by decide)
  have hneg : ((scNeg a).toNat : Int) = (0 - (a.toNat % ell : Nat)) % ell := by
    rw [scNeg, scSub52_emod scZero_canonical (scUnpack_scReduce_canonical a), scUnpack_scReduce_value]
    rfl
  rw [← Int.natCast_inj, hneg, Int.natCast_mod (ell - _), Nat.cast_sub hlt.le, ← Int.add_emod_right]
  congr 1
  omega

theorem word64_eq (n j : Nat) : word64 n j = n / 2 ^ (64 * j) % 2 ^ 64 := by
  rw [word64, u64, Nat.shiftRight_eq_div_pow]

/-- The limbs of `n mod 2^260` (R221). -/
theorem wideLo_value (n : Nat) : (wideLo n).value = n % 2 ^ 260 := by
  simp only [wideLo, and_M52, Nat.shiftRight_eq_div_pow]
  have h0 := word64_eq n 0
  have h1 := word64_eq n 1
  have h2 := word64_eq n 2
  have h3 := word64_eq n 3
  have h4 := word64_eq n 4
  generalize word64 n 0 = w0, word64 n 1 = w1, word64 n 2 = w2, word64 n 3 = w3, word64 n 4 = w4 at *
  rw [or_u64_shift _ (by omega) (by decide), or_u64_shift _ (by omega) (by decide),
    or_u64_shift _ (by omega) (by decide), or_u64_shift _ (by omega) (by decide)]
  rw [(Unpacked.ofLimbs_norm (by omega) (by omega) (by omega) (by omega) (by omega)).2]
  omega

/-- The limbs of `n >> 260` of a 512-bit integer (R221). -/
theorem wideHi_value {n : Nat} (h : n < 2 ^ 512) : (wideHi n).value = n / 2 ^ 260 := by
  simp only [wideHi, and_M52, Nat.shiftRight_eq_div_pow]
  have h4 := word64_eq n 4
  have h5 := word64_eq n 5
  have h6 := word64_eq n 6
  have h7 := word64_eq n 7
  generalize word64 n 4 = w4, word64 n 5 = w5, word64 n 6 = w6, word64 n 7 = w7 at *
  rw [or_u64_shift _ (by omega) (by decide), or_u64_shift _ (by omega) (by decide),
    or_u64_shift _ (by omega) (by decide)]
  rw [(Unpacked.ofLimbs_norm (by omega) (by omega) (by omega) (by omega) (by omega)).2]
  omega

theorem scFromWide_eq {n : Nat} (h : n < 2 ^ 512) : (scFromWide n).toNat = n % ell := by
  have nh := wideHi_norm n
  have nl := wideLo_norm n
  obtain ⟨ch, vh⟩ := scMM_canonical_of_norm nh scRR_lt
  obtain ⟨cl, vl⟩ := scMM_canonical_of_norm nl scR_lt
  have hell : ell < 2 ^ 253 := by decide
  have hlt : (scMM (wideHi n) scRR).value + (scMM (wideLo n) scR).value < 2 ^ 260 := by omega
  obtain ⟨hn, hv⟩ := scAdd52_spec ch cl hlt
  refine scPack_eq_mod ⟨hn, ?_⟩ ?_
  · rw [hv]
    split <;> omega
  · calc (scAdd52 (scMM (wideHi n) scRR) (scMM (wideLo n) scR)).value
        ≡ (scMM (wideHi n) scRR).value + (scMM (wideLo n) scR).value [MOD ell] := scAdd52_modEq ch cl hlt
      _ ≡ n / 2 ^ 260 * 2 ^ 260 + n % 2 ^ 260 [MOD ell] := by
        rw [← wideHi_value h, ← wideLo_value]
        exact (scMM_scRR_modEq nh).add (scMM_scR_modEq nl)
      _ = n := Nat.div_add_mod' n _

/-- SC_ISCANON reads the borrow of `n - l` (R239). -/
theorem scIsCanon_eq (a : Scalar) : scIsCanon a = decide (a.toNat < ell) := by
  obtain ⟨hn, hv⟩ := scUnpack_spec a
  obtain ⟨hd, hk, he⟩ := scSubBorrow_spec hn scL_norm
  have hdlt := hd.value_lt
  have ha := a.isLt
  rw [hv, scL_value] at he
  rw [scIsCanon, Bool.eq_iff_iff, beq_iff_eq, decide_eq_true_iff]
  constructor <;> intro <;> omega

end Sys2Proof.Machine

/-! SUPPORT. The scalar commands (42_scalar.md R230 to R242, R246): that a well-formed command with its sources held
makes its writes, with the values of the lemmas above. -/
namespace Sys2Proof.Machine

/-! ### Scalar commands that complete (40_system_choice.md R130) -/

section
variable {s : State} {a b : RegNo} {x y : Scalar} {g : Digits} {i : Instr}

theorem srcS_of_readS (hx : s.readS a = some x) : s.srcS a = .ok x := (source_ok_iff ..).2 hx

/-- A well-formed command of one scalar source makes its writes. -/
theorem exec_of_withS {f : Scalar → List Write} (hwf : i.WellFormed s.params) (hi : writes i s = withS s a f)
    (hx : s.readS a = some x) : exec i s = .next (s.applyAll (f x)).retire := by
  refine exec_of_writes hwf (hi.trans ?_)
  rw [withS, srcS_of_readS hx]
  rfl

/-- A well-formed command of two scalar sources makes its writes. -/
theorem exec_of_withSS {f : Scalar → Scalar → List Write} (hwf : i.WellFormed s.params)
    (hi : writes i s = withSS s a b f) (hx : s.readS a = some x) (hy : s.readS b = some y) :
    exec i s = .next (s.applyAll (f x y)).retire := by
  refine exec_of_writes hwf (hi.trans ?_)
  rw [withSS, srcS_of_readS hx, srcS_of_readS hy]
  rfl

theorem exec_dgSt {imm : Imm} (hwf : (Instr.dgSt a imm).WellFormed s.params) (hg : s.readDG a = some g) :
    exec (.dgSt a imm) s = .next (s.writeSlots imm g.dig).retire := by
  have hsrc : s.srcDG a = .ok g := (source_ok_iff ..).2 hg
  refine exec_of_writes (ws := [.slots imm g.dig]) hwf ?_
  rw [writes, hsrc]
  rfl

end

/-! ### Slots (20_memory.md R71 to R73) -/

/-- The slots stored to read as the bytes stored. -/
theorem memRead_writeSlots {s : State} (hm : Memory.wf s.oram = true) (imm : Imm) {n : Nat} {bs : List Byte}
    (hn : bs.length = n) : memRead (s.writeSlots imm bs).oram (32 * imm.toNat) n = bs :=
  hn ▸ memRead_memWrite_self hm (slotAddr imm) bs

theorem le_lt_pow_length (bs : List Byte) : le bs < 256 ^ bs.length := by
  rw [← leBytes_le bs, le_leBytes, leBytes_length]
  exact Nat.mod_lt _ (by positivity)

/-- The integer of `n` slots. -/
theorem le_readSlots_lt (s : State) (imm : Imm) (n : Nat) : le (s.readSlots imm n) < 2 ^ (256 * n) := by
  have h := le_lt_pow_length (s.readSlots imm n)
  rwa [State.readSlots, memRead_length, show 256 = 2 ^ 8 from rfl, ← pow_mul, ← mul_assoc] at h

/-! ### The statements -/

/-- Settles O28: SC_LDW reduces the 512 bits of two slots, the others move the content as it is. -/
theorem scalarAndDigitMoves : Obligations.ScalarAndDigitMoves := by
  unfold Obligations.ScalarAndDigitMoves
  refine ⟨fun s d imm hwf => ?_, fun s d imm hwf => ?_, fun s a imm x hwf hx => ?_, fun s d a x hwf hx => ?_,
    fun s a imm g hwf hg hlegal => ?_⟩
  · refine ⟨BitVec.ofNat 256 (le (s.readSlots imm 1) % 2 ^ 255), ?_, exec_of_writes hwf rfl⟩
    rw [BitVec.toNat_ofNat, Nat.mod_eq_of_lt ((Nat.mod_lt _ (by decide)).trans (by decide))]
    rfl
  · have hlt : le (s.readSlots imm 2) < 2 ^ 512 := by simpa only [Nat.reduceMul] using le_readSlots_lt s imm 2
    exact ⟨scFromWide (le (s.readSlots imm 2)), scFromWide_eq hlt, exec_of_writes hwf rfl⟩
  · refine ⟨exec_of_withS hwf rfl hx, fun hm => ?_⟩
    rw [memRead_writeSlots hm imm (leBytes_length ..), le_leBytes]
    exact Nat.mod_eq_of_lt x.isLt
  · exact exec_of_withS hwf rfl hx
  · obtain ⟨-, hlen, -⟩ := hlegal
    exact ⟨exec_dgSt hwf hg, fun hm => memRead_writeSlots hm imm hlen⟩

/-- Settles O29: each result is the residue its composite operation answers. -/
theorem scalarArithmetic : Obligations.ScalarArithmetic := by
  unfold Obligations.ScalarArithmetic
  intro s d a b x y hd ha hb hx hy _ _
  have h2 : decide (d.toNat < s.params.ns ∧ a.toNat < s.params.ns) = true := decide_eq_true ⟨hd, ha⟩
  have h3 : decide (d.toNat < s.params.ns ∧ a.toNat < s.params.ns ∧ b.toNat < s.params.ns) = true :=
    decide_eq_true ⟨hd, ha, hb⟩
  exact ⟨⟨_, scAdd_eq x y, exec_of_withSS (i := .scAdd d a b) h3 rfl hx hy⟩,
    ⟨_, scSub_eq x y, exec_of_withSS (i := .scSub d a b) h3 rfl hx hy⟩,
    ⟨_, scMul_eq x y, exec_of_withSS (i := .scMul d a b) h3 rfl hx hy⟩,
    ⟨_, scNeg_eq x, exec_of_withS (i := .scNeg d a) h2 rfl hx⟩,
    ⟨_, scReduce_eq x, exec_of_withS (i := .scRed d a) h2 rfl hx⟩⟩

/-- Settles O30: the Montgomery products, by their residues and their bound `l`. -/
theorem scalarMontgomery : Obligations.ScalarMontgomery := by
  unfold Obligations.ScalarMontgomery
  intro s d a b c x y hd ha hb hc hx hy _ _
  have h2 : decide (d.toNat < s.params.ns ∧ a.toNat < s.params.ns) = true := decide_eq_true ⟨hd, ha⟩
  have h3 : decide (d.toNat < s.params.ns ∧ a.toNat < s.params.ns ∧ b.toNat < s.params.ns) = true :=
    decide_eq_true ⟨hd, ha, hb⟩
  have hcanon : decide (c.toNat < s.params.nc ∧ a.toNat < s.params.ns) = true := decide_eq_true ⟨hc, ha⟩
  rw [← scIsCanon_eq]
  exact ⟨⟨_, scMmul_lt x y, scMmul_modEq x y, exec_of_withSS (i := .scMmul d a b) h3 rfl hx hy⟩,
    ⟨_, scToMont_eq x, exec_of_withS (i := .scTomont d a) h2 rfl hx⟩,
    ⟨_, scFromMont_lt x, scFromMont_modEq x, exec_of_withS (i := .scFrommont d a) h2 rfl hx⟩,
    exec_of_withS (i := .scIscanon c a) hcanon rfl hx⟩

end Sys2Proof.Machine

/-! SUPPORT. The digit recodings (42_scalar.md R222 to R224): what the digits add up to and the ranges they lie in, first
as integers, then as the bytes of a digit buffer (10_state.md R40). -/
namespace Sys2Proof.Machine

/-! ### Digits as bytes -/

/-- The integer of signed digits in a base. -/
def digitSum (b : Int) (ds : List Int) : Int := ds.foldr (fun d n => d + b * n) 0

@[simp] theorem digitSum_nil (b : Int) : digitSum b [] = 0 := rfl
@[simp] theorem digitSum_cons (b d : Int) (ds : List Int) : digitSum b (d :: ds) = d + b * digitSum b ds := rfl

theorem digitSum_append_zeros (b : Int) (ds : List Int) (k : Nat) :
    digitSum b (ds ++ List.replicate k 0) = digitSum b ds := by
  induction ds with
  | nil =>
    induction k with
    | zero => rfl
    | succ k ih =>
      rw [List.nil_append] at ih ⊢
      rw [List.replicate_succ, digitSum_cons, ih, digitSum_nil, mul_zero, add_zero]
  | cons d ds ih => rw [List.cons_append, digitSum_cons, digitSum_cons, ih]

/-- A digit is an `i8`. -/
def IsDigit (d : Int) : Prop := -128 ≤ d ∧ d < 128

theorem digitByte_toInt {d : Int} (h : IsDigit d) : (digitByte d).toInt = d :=
  BitVec.toInt_ofInt_eq_self (by decide) h.1 h.2

/-- Digit `i` of a buffer: past the digits it is 0. -/
theorem getD_ofList (ds : List Int) (i : Nat) : (Digits.ofList ds).dig.getD i 0 = digitByte (ds.getD i 0) := by
  have h0 : (0 : Byte) = digitByte 0 := rfl
  rw [Digits.ofList, h0, List.getD_map]
  congr 1
  obtain hi | hi := Nat.lt_or_ge i ds.length
  · rw [List.getD_append _ _ _ _ hi]
  · rw [List.getD_append_right _ _ _ _ hi, List.getD_eq_default ds 0 hi, List.getD_eq_getElem?_getD,
      List.getElem?_replicate]
    split <;> rfl

theorem getD_ofList_toInt {ds : List Int} (h : ∀ d ∈ ds, IsDigit d) (i : Nat) :
    ((Digits.ofList ds).dig.getD i 0).toInt = ds.getD i 0 := by
  rw [getD_ofList, digitByte_toInt]
  obtain hi | hi := Nat.lt_or_ge i ds.length
  · rw [List.getD_eq_getElem _ _ hi]
    exact h _ (List.getElem_mem hi)
  · rw [List.getD_eq_default _ _ hi]
    exact ⟨by decide, by decide⟩

/-- The bytes of a buffer add up to what its digits do. -/
theorem foldr_ofList (b : Int) {ds : List Int} (h : ∀ d ∈ ds, IsDigit d) :
    (Digits.ofList ds).dig.foldr (fun x n => x.toInt + b * n) 0 = digitSum b ds := by
  have hmap (es : List Int) (hes : ∀ d ∈ es, IsDigit d) :
      (es.map digitByte).foldr (fun x n => x.toInt + b * n) 0 = digitSum b es := by
    induction es with
    | nil => rfl
    | cons e es ih =>
      rw [List.forall_mem_cons] at hes
      rw [List.map_cons, List.foldr_cons, digitByte_toInt hes.1, ih hes.2, digitSum_cons]
  rw [← digitSum_append_zeros b ds (256 - ds.length)]
  refine hmap _ fun d hd => ?_
  obtain hd | hd := List.mem_append.1 hd
  · exact h d hd
  · exact List.eq_of_mem_replicate hd ▸ ⟨by decide, by decide⟩

/-! ### Radix 2^w (R222, R223) -/

/-- The `w` bits of an integer from a position on. -/
theorem window_eq (n k w : Nat) : n >>> k &&& (2 ^ w - 1) = n / 2 ^ k % 2 ^ w := by
  rw [Nat.and_two_pow_sub_one_eq_mod, Nat.shiftRight_eq_div_pow]

theorem two_pow_eq_add {w : Nat} (hw : 1 ≤ w) : 2 ^ w = 2 ^ (w - 1) + 2 ^ (w - 1) := by
  obtain ⟨v, rfl⟩ := Nat.exists_eq_add_of_le' hw
  rw [Nat.add_sub_cancel, pow_succ, Nat.mul_two]

/-- The radix-16 form is the loop of the radix-2^w form for `w = 4`, on nibbles read beforehand. -/
theorem recentre16_eq_radix2wLoop (n left i carry : Nat) :
    recentre16 ((List.range' i left).map fun j => n >>> (4 * j) &&& 15) carry = radix2wLoop n 4 left i carry := by
  induction left generalizing i carry with
  | zero => rfl
  | succ left ih =>
    obtain _ | left := left
    · simp [recentre16, radix2wLoop, Nat.add_comm]
    · have htail := ih (i + 1)
      rw [List.range'_succ, List.map_cons] at htail ⊢
      rw [List.range'_succ, List.map_cons, recentre16, htail, Nat.add_comm _ carry]
      conv_rhs => rw [radix2wLoop]
      simp [Int.mul_comm]

/-- One loop serves every width. -/
theorem scRadix2w_eq (n w : Nat) : scRadix2w n w = radix2wLoop n w ((256 + w - 1) / w) 0 0 := by
  rw [scRadix2w]
  split
  · next hw =>
    subst hw
    rw [scRadix16, List.range_eq_range']
    exact recentre16_eq_radix2wLoop n 64 0 0
  · rfl

/-- Signed digits of `n / 2^(w i)` with a carry added: each but the last leaves its window, recentred, and a carry. -/
inductive SignedRadix (n w : Nat) : Nat → Nat → List Int → Prop
  | last {i c : Nat} (hc : c ≤ 1) : SignedRadix n w i c [((c + n / 2 ^ (w * i) : Nat) : Int)]
  | cons {i c c' : Nat} {g : Int} {ds : List Int} (hlo : -2 ^ (w - 1) ≤ g) (hhi : g < 2 ^ (w - 1))
      (hg : g + 2 ^ w * c' = ((c + n / 2 ^ (w * i) % 2 ^ w : Nat) : Int)) (hds : SignedRadix n w (i + 1) c' ds) :
      SignedRadix n w i c (g :: ds)

/-- A window with its carry, recentred (R223). -/
theorem recentred_digit {w coef : Nat} (hw : 1 ≤ w) (hcoef : coef ≤ 2 ^ w) :
    (coef + 2 ^ (w - 1)) >>> w ≤ 1 ∧
      -2 ^ (w - 1) ≤ (coef : Int) - ((coef + 2 ^ (w - 1)) >>> w : Nat) * 2 ^ w ∧
      (coef : Int) - ((coef + 2 ^ (w - 1)) >>> w : Nat) * 2 ^ w < 2 ^ (w - 1) := by
  rw [Nat.shiftRight_eq_div_pow]
  have hdiv := Nat.div_add_mod (coef + 2 ^ (w - 1)) (2 ^ w)
  have hmod := Nat.mod_lt (coef + 2 ^ (w - 1)) (Nat.two_pow_pos w)
  have hcarry : (coef + 2 ^ (w - 1)) / 2 ^ w ≤ 1 := by
    have hpos := Nat.two_pow_pos (w - 1)
    have hw2 := two_pow_eq_add hw
    exact Nat.lt_succ_iff.1 (Nat.div_lt_of_lt_mul (by omega))
  have hw2 : (2 : Int) ^ w = 2 ^ (w - 1) + 2 ^ (w - 1) := by exact_mod_cast two_pow_eq_add hw
  have hrem := Nat.zero_le ((coef + 2 ^ (w - 1)) % 2 ^ w)
  zify at hdiv hmod hrem
  refine ⟨hcarry, ?_, ?_⟩ <;> push_cast <;> linarith

/-- The loop writes such digits where its windows cover `n` (R223). -/
theorem radix2wLoop_signedRadix {n w left i c : Nat} (hw : 1 ≤ w) (hn : n < 2 ^ (w * (i + left))) (hc : c ≤ 1)
    (hleft : left = 0 → w = 8) : SignedRadix n w i c (radix2wLoop n w left i c) := by
  induction left generalizing i c with
  | zero =>
    rw [radix2wLoop, if_pos (hleft rfl)]
    have h0 : n / 2 ^ (w * i) = 0 := Nat.div_eq_of_lt hn
    have h := SignedRadix.last (n := n) (w := w) (i := i) hc
    rwa [h0, Nat.add_zero] at h
  | succ left ih =>
    simp only [radix2wLoop, window_eq]
    have hcoef : c + n / 2 ^ (w * i) % 2 ^ w ≤ 2 ^ w := by
      have := Nat.mod_lt (n / 2 ^ (w * i)) (Nat.two_pow_pos w)
      omega
    split
    · next hlast =>
      have hlt : n / 2 ^ (w * i) < 2 ^ w := by
        apply Nat.div_lt_of_lt_mul
        rw [← pow_add]
        obtain ⟨rfl, -⟩ := hlast
        exact hn
      rw [Int.sub_add_cancel, Nat.mod_eq_of_lt hlt]
      exact .last hc
    · next hmore =>
      obtain ⟨hcarry, hlo, hhi⟩ := recentred_digit hw hcoef
      refine .cons hlo hhi ?_ (ih ?_ hcarry fun h0 => ?_)
      · rw [mul_comm (2 ^ w : Int), Int.sub_add_cancel]
      · rwa [Nat.add_right_comm]
      · exact not_not.1 fun h8 => hmore ⟨h0, h8⟩

namespace SignedRadix
variable {n w i c : Nat} {ds : List Int}

theorem digitSum_eq (h : SignedRadix n w i c ds) : digitSum (2 ^ w) ds = ((c + n / 2 ^ (w * i) : Nat) : Int) := by
  induction h with
  | last => simp
  | @cons i c c' g ds _ _ hg _ ih =>
    have hnext : n / 2 ^ (w * (i + 1)) = n / 2 ^ (w * i) / 2 ^ w := by
      rw [Nat.div_div_eq_div_mul, ← pow_add, Nat.mul_succ]
    have hsplit := Nat.div_add_mod (n / 2 ^ (w * i)) (2 ^ w)
    zify at hsplit
    rw [digitSum_cons, ih, hnext]
    push_cast at hg ⊢
    linear_combination hg + hsplit

theorem length_pos (h : SignedRadix n w i c ds) : 0 < ds.length := by
  cases h <;> exact Nat.succ_pos _

/-- Every digit but the last is in the signed range of the radix. -/
theorem range (h : SignedRadix n w i c ds) {j : Nat} (hj : j < ds.length - 1) :
    -2 ^ (w - 1) ≤ ds.getD j 0 ∧ ds.getD j 0 < 2 ^ (w - 1) := by
  induction h generalizing j with
  | last => exact absurd hj (Nat.not_lt_zero j)
  | cons hlo hhi _ _ ih =>
    obtain _ | j := j
    · exact ⟨hlo, hhi⟩
    · rw [List.getD_cons_succ]
      exact ih (by rw [List.length_cons] at hj; omega)

/-- The last digit is what the bits left over and a carry make. -/
theorem last_digit (h : SignedRadix n w i c ds) :
    0 ≤ ds.getD (ds.length - 1) 0 ∧ ds.getD (ds.length - 1) 0 ≤ 1 + (n / 2 ^ (w * (i + ds.length - 1)) : Nat) := by
  induction h with
  | last hc =>
    simp only [List.length_singleton, Nat.sub_self, List.getD_cons_zero, Nat.add_sub_cancel]
    exact ⟨Int.natCast_nonneg _, by exact_mod_cast Nat.add_le_add_right hc _⟩
  | @cons i c c' g ds _ _ _ hds ih =>
    obtain ⟨k, hk⟩ := Nat.exists_eq_add_of_le' hds.length_pos
    rw [hk] at ih
    rw [List.length_cons, hk, Nat.add_sub_cancel, List.getD_cons_succ]
    rwa [Nat.add_right_comm] at ih

end SignedRadix

theorem pow_pred_le_128 {w : Nat} (hw : w ≤ 8) : (2 : Int) ^ (w - 1) ≤ 128 := by
  exact_mod_cast Nat.pow_le_pow_right (n := 2) (by decide) (show w - 1 ≤ 7 by omega)

/-! ### SC_RADIX16 and SC_RADIX2W (R222, R223) -/

section
variable {n w : Nat} (hn : n < 2 ^ 255) (h4 : 4 ≤ w) (h8 : w ≤ 8)

include h4 h8 in
/-- The digit counts of R223, by the width. -/
theorem scRadix2w_length : [64, 52, 43, 37, 33][w - 4]? = some (scRadix2w n w).length := by
  rw [scRadix2w_eq, radix2wLoop_length]
  interval_cases w <;> rfl

include h4 h8 in
/-- The last digit weighs at least 2^252. -/
theorem le_scRadix2w_weight : 252 ≤ w * ((scRadix2w n w).length - 1) := by
  rw [scRadix2w_eq, radix2wLoop_length]
  interval_cases w <;> decide

include hn h4 h8

theorem scRadix2w_signedRadix : SignedRadix n w 0 0 (scRadix2w n w) := by
  rw [scRadix2w_eq]
  refine radix2wLoop_signedRadix (by omega) (hn.trans_le (Nat.pow_le_pow_right (by decide) ?_)) (by decide) fun h => ?_
  · interval_cases w <;> decide
  · exact absurd h (Nat.div_pos (by omega) (by omega)).ne'

/-- The digits add up to the integer. -/
theorem digitSum_scRadix2w : digitSum (2 ^ w) (scRadix2w n w) = n := by
  rw [(scRadix2w_signedRadix hn h4 h8).digitSum_eq, Nat.zero_add, Nat.mul_zero, pow_zero, Nat.div_one]

/-- The last digit is what three bits and a carry make. -/
theorem scRadix2w_last : 0 ≤ (scRadix2w n w).getD ((scRadix2w n w).length - 1) 0 ∧
    (scRadix2w n w).getD ((scRadix2w n w).length - 1) 0 ≤ 8 := by
  obtain ⟨hlo, hhi⟩ := (scRadix2w_signedRadix hn h4 h8).last_digit
  have hweight := Nat.pow_le_pow_right (n := 2) (by decide) (le_scRadix2w_weight (n := n) h4 h8)
  have htop : n / 2 ^ (w * (0 + (scRadix2w n w).length - 1)) ≤ 7 := by
    rw [Nat.zero_add]
    refine (Nat.div_le_div_left hweight (by decide)).trans ?_
    omega
  exact ⟨hlo, hhi.trans (by omega)⟩

theorem scRadix2w_isDigit : ∀ d ∈ scRadix2w n w, IsDigit d := by
  intro d hd
  obtain ⟨j, hj, rfl⟩ := List.mem_iff_getElem.1 hd
  rw [← List.getD_eq_getElem _ 0 hj]
  obtain hlt | rfl : j < (scRadix2w n w).length - 1 ∨ j = (scRadix2w n w).length - 1 := by omega
  · obtain ⟨hlo, hhi⟩ := (scRadix2w_signedRadix hn h4 h8).range hlt
    have h128 := pow_pred_le_128 h8
    exact ⟨by omega, by omega⟩
  · obtain ⟨hlo, hhi⟩ := scRadix2w_last hn h4 h8
    exact ⟨by omega, by omega⟩

end

/-! ### SC_NAF (R224) -/

/-- A width-`w` non-adjacent form. -/
def IsNaf (w : Nat) (ds : List Int) : Prop :=
  ∀ i, ds.getD i 0 ≠ 0 → ds.getD i 0 % 2 = 1 ∧ (ds.getD i 0).natAbs < 2 ^ (w - 1) ∧
    ∀ j, i < j → j < i + w → ds.getD j 0 = 0

theorem isNaf_nil (w : Nat) : IsNaf w [] := fun _ h => absurd rfl h

theorem IsNaf.cons {w : Nat} {d : Int} {ds : List Int} (h : IsNaf w ds)
    (hd : d ≠ 0 → d % 2 = 1 ∧ d.natAbs < 2 ^ (w - 1) ∧ ∀ j < w - 1, ds.getD j 0 = 0) : IsNaf w (d :: ds) := by
  rintro (_ | i) hi
  · obtain ⟨hodd, hlt, hzero⟩ := hd hi
    refine ⟨hodd, hlt, fun j hij hj => ?_⟩
    obtain ⟨j, rfl⟩ := Nat.exists_eq_add_of_le' hij
    exact hzero j (by omega)
  · obtain ⟨hodd, hlt, hzero⟩ := h i hi
    refine ⟨hodd, hlt, fun j hij hj => ?_⟩
    obtain ⟨j, rfl⟩ := Nat.exists_eq_add_of_le' (Nat.zero_lt_of_lt hij)
    exact hzero j (by omega) (by omega)

/-- A digit of a non-adjacent form is an `i8`. -/
theorem IsNaf.isDigit {w : Nat} {ds : List Int} (hw : w ≤ 8) (h : IsNaf w ds) : ∀ d ∈ ds, IsDigit d := by
  intro d hd
  obtain ⟨i, hi, rfl⟩ := List.mem_iff_getElem.1 hd
  rw [← List.getD_eq_getElem _ 0 hi]
  obtain h0 | h0 := eq_or_ne (ds.getD i 0) 0
  · rw [h0]
    exact ⟨by decide, by decide⟩
  · obtain ⟨-, hlt, -⟩ := h i h0
    have h128 := pow_pred_le_128 hw
    zify at hlt
    exact abs_lt.1 (hlt.trans_le h128) |>.imp_left le_of_lt

/-- One position of the loop that is not skipped: 0 where the window is even, else an odd digit congruent to the window,
after which `w - 1` positions are skipped. -/
theorem nafLoop_step {w : Nat} (hw : 2 ≤ w) (n left pos : Nat) {c : Nat} (hc : c ≤ 1) :
    ((c + n / 2 ^ pos % 2 ^ w) % 2 = 0 ∧ nafLoop n w (left + 1) pos 0 c = 0 :: nafLoop n w left (pos + 1) 0 c) ∨
      ∃ (d : Int) (c' : Nat), c' ≤ 1 ∧ d % 2 = 1 ∧ d.natAbs < 2 ^ (w - 1) ∧
        d + 2 ^ w * c' = ((c + n / 2 ^ pos % 2 ^ w : Nat) : Int) ∧
        nafLoop n w (left + 1) pos 0 c = d :: nafLoop n w left (pos + 1) (w - 1) c' := by
  simp only [nafLoop, window_eq]
  have hmod := Nat.mod_lt (n / 2 ^ pos) (Nat.two_pow_pos w)
  have hw2 := two_pow_eq_add (show 1 ≤ w by omega)
  have hhalf := two_pow_eq_add (show 1 ≤ w - 1 by omega)
  have hcast : (2 : Int) ^ w = (2 ^ w : Nat) := by push_cast; rfl
  rw [hcast]
  generalize n / 2 ^ pos % 2 ^ w = low, 2 ^ w = base at *
  split
  · next heven => exact .inl ⟨heven, rfl⟩
  · split
    · next hlt => exact .inr ⟨_, 0, by decide, by omega, by omega, by omega, rfl⟩
    · next hge => exact .inr ⟨_, 1, le_rfl, by omega, by omega, by omega, rfl⟩

/-- The positions skipped hold 0. -/
theorem nafLoop_skipped {n w left pos skip c j : Nat} (hj : j < skip) :
    (nafLoop n w left pos skip c).getD j 0 = 0 := by
  induction left generalizing pos skip j with
  | zero => rfl
  | succ left ih =>
    obtain _ | skip := skip
    · exact absurd hj (Nat.not_lt_zero j)
    · rw [nafLoop]
      obtain _ | j := j
      · rfl
      · exact ih (Nat.lt_of_succ_lt_succ hj)

theorem nafLoop_isNaf {n w left pos skip c : Nat} (hw : 2 ≤ w) (hc : c ≤ 1) :
    IsNaf w (nafLoop n w left pos skip c) := by
  induction left generalizing pos skip c with
  | zero => exact isNaf_nil w
  | succ left ih =>
    obtain _ | skip := skip
    · obtain ⟨-, h⟩ | ⟨d, c', hc', hodd, hlt, -, h⟩ := nafLoop_step hw n left pos hc
      · rw [h]
        exact (ih hc).cons fun h0 => absurd rfl h0
      · rw [h]
        exact (ih hc').cons fun _ => ⟨hodd, hlt, fun j hj => nafLoop_skipped hj⟩
    · rw [nafLoop]
      exact (ih hc).cons fun h0 => absurd rfl h0

/-- What is left of an integer below 2^255 from position `q` on is at most this: no carry leaves position 255. -/
def nafBound (q : Nat) : Nat := 2 ^ 255 / 2 ^ q

theorem nafBound_add (q w : Nat) : nafBound (q + w) = nafBound q / 2 ^ w := by
  rw [nafBound, pow_add, ← Nat.div_div_eq_div_mul, nafBound]

theorem nafBound_dvd_or_le (q w : Nat) : 2 ^ w ∣ nafBound q ∨ nafBound q ≤ 2 ^ (w - 1) := by
  obtain hq | hq := Nat.lt_or_ge 255 q
  · have h0 : nafBound q = 0 := Nat.div_eq_of_lt (Nat.pow_lt_pow_right (by decide) hq)
    exact .inr (h0 ▸ Nat.zero_le _)
  · have hpow : nafBound q = 2 ^ (255 - q) := Nat.pow_div hq (by decide)
    rw [hpow]
    obtain h | h := Nat.lt_or_ge (255 - q) w
    · exact .inr (Nat.pow_le_pow_right (by decide) (by omega))
    · exact .inl (Nat.pow_dvd_pow 2 h)

/-- An odd digit leaves no more than the bound of the position `w` further on. -/
theorem le_nafBound_add {q w m c c' : Nat} {d : Int} (hw : 1 ≤ w) (hm : m + c ≤ nafBound q)
    (hd : d.natAbs < 2 ^ (w - 1)) (hsum : d + 2 ^ w * c' = ((c + m % 2 ^ w : Nat) : Int)) :
    m / 2 ^ w + c' ≤ nafBound (q + w) := by
  have hdiv := Nat.div_add_mod m (2 ^ w)
  have hlt : 2 ^ w * (m / 2 ^ w + c') < nafBound q + 2 ^ (w - 1) := by
    zify at hdiv hm hd ⊢
    push_cast at hsum
    have := (abs_lt.1 hd).1
    linarith
  have hw2 := two_pow_eq_add hw
  rw [nafBound_add, Nat.le_div_iff_mul_le (Nat.two_pow_pos w), mul_comm]
  obtain ⟨k, hk⟩ | hle := nafBound_dvd_or_le q w
  · rw [hk] at hlt ⊢
    refine Nat.mul_le_mul_left _ (Nat.lt_succ_iff.1 (Nat.lt_of_mul_lt_mul_left (a := 2 ^ w) ?_))
    rw [Nat.mul_succ]
    omega
  · have h1 : m / 2 ^ w + c' < 1 := Nat.lt_of_mul_lt_mul_left (a := 2 ^ w) (by omega)
    rw [Nat.lt_one_iff.1 h1, mul_zero]
    exact Nat.zero_le _

/-- The digits from position `pos` on add up to what is left of the integer, the carry included. -/
theorem digitSum_nafLoop {n w left pos skip c : Nat} (hw : 2 ≤ w) (hpos : pos + left = 256) (hc : c ≤ 1)
    (hbound : n / 2 ^ (pos + skip) + c ≤ nafBound (pos + skip)) :
    digitSum 2 (nafLoop n w left pos skip c) = 2 ^ skip * ((n / 2 ^ (pos + skip) + c : Nat) : Int) := by
  induction left generalizing pos skip c with
  | zero =>
    have h0 : nafBound (pos + skip) = 0 := Nat.div_eq_of_lt (Nat.pow_lt_pow_right (by decide) (by omega))
    rw [h0, Nat.le_zero] at hbound
    rw [hbound, nafLoop, digitSum_nil, Nat.cast_zero, mul_zero]
  | succ left ih =>
    obtain _ | skip := skip
    · rw [Nat.add_zero pos] at hbound ⊢
      obtain ⟨heven, h⟩ | ⟨d, c', hc', -, hd, hsum, h⟩ := nafLoop_step hw n left pos hc
      · have hhalf : n / 2 ^ (pos + 1) = n / 2 ^ pos / 2 := by rw [pow_succ, Nat.div_div_eq_div_mul]
        have hmod : n / 2 ^ pos % 2 ^ w % 2 = n / 2 ^ pos % 2 := Nat.mod_mod_of_dvd _ (dvd_pow_self 2 (by omega))
        have hnext := nafBound_add pos 1
        have hbound' : n / 2 ^ (pos + 1 + 0) + c ≤ nafBound (pos + 1 + 0) := by
          rw [Nat.add_zero (pos + 1), hhalf, hnext]
          omega
        rw [h, digitSum_cons, ih (by omega) hc hbound', Nat.add_zero (pos + 1), hhalf]
        omega
      · have hnext : n / 2 ^ (pos + w) = n / 2 ^ pos / 2 ^ w := by rw [pow_add, Nat.div_div_eq_div_mul]
        have hq : pos + 1 + (w - 1) = pos + w := by omega
        have htail := ih (pos := pos + 1) (skip := w - 1) (c := c') (by omega) hc'
          (hq ▸ hnext ▸ le_nafBound_add (by omega) hbound hd hsum)
        have hw2 : (2 : Int) * 2 ^ (w - 1) = 2 ^ w := by rw [← pow_succ', Nat.sub_add_cancel (by omega)]
        have hdiv := Nat.div_add_mod (n / 2 ^ pos) (2 ^ w)
        rw [h, digitSum_cons, htail, hq, hnext, ← mul_assoc, hw2]
        zify at hdiv
        push_cast at hsum ⊢
        linear_combination hsum + hdiv
    · have hq : pos + 1 + skip = pos + (skip + 1) := by omega
      rw [nafLoop, digitSum_cons, ih (by omega) hc (hq ▸ hbound), hq, zero_add, ← mul_assoc, ← pow_succ']

theorem digitSum_scNaf {n w : Nat} (hn : n < 2 ^ 255) (hw : 2 ≤ w) : digitSum 2 (scNaf n w) = n := by
  have h0 : n / 2 ^ (0 + 0) + 0 = n := Nat.div_one n
  have hbound : n ≤ nafBound (0 + 0) := hn.le.trans_eq (Nat.div_one _).symm
  rw [scNaf, digitSum_nafLoop hw rfl (by decide) (h0.symm ▸ hbound), h0, pow_zero, one_mul]

/-! ### The statements -/

/-- Settles O31: both forms are signed digits of one kind, which fit their bytes. -/
theorem radixDigits : Obligations.RadixDigits := by
  unfold Obligations.RadixDigits
  refine ⟨fun s d a x hwf hx hlt => ?_, fun s d a imm x hwf hx hlt => ?_⟩
  · have hlen := scRadix16_length x.toNat
    have hdigit := scRadix2w_isDigit (w := 4) hlt le_rfl (by decide)
    have hsum := digitSum_scRadix2w (w := 4) hlt le_rfl (by decide)
    have hrange := scRadix2w_signedRadix (w := 4) hlt le_rfl (by decide)
    have hlast := scRadix2w_last (w := 4) hlt le_rfl (by decide)
    rw [scRadix2w, if_pos rfl] at hdigit hsum hrange hlast
    refine ⟨Digits.ofList (scRadix16 x.toNat), exec_of_withS hwf rfl hx, Digits.ofList_legal (by rw [hlen]; decide),
      hlen, (foldr_ofList 16 hdigit).trans hsum, fun i hi => ?_, ?_⟩
    · rw [getD_ofList_toInt hdigit]
      obtain ⟨hlo, hhi⟩ := hrange.range (j := i) (by omega)
      exact ⟨hlo, Int.lt_add_one_iff.1 hhi⟩
    · rw [getD_ofList_toInt hdigit]
      rwa [hlen] at hlast
  · obtain ⟨-, -, h4, h8⟩ := of_decide_eq_true hwf
    have hdigit := scRadix2w_isDigit hlt h4 h8
    refine ⟨Digits.ofList (scRadix2w x.toNat imm.toNat), exec_of_withS hwf rfl hx,
      Digits.ofList_legal (scRadix2w_length_mem _ _ h4 h8), scRadix2w_length h4 h8,
      (foldr_ofList _ hdigit).trans (digitSum_scRadix2w hlt h4 h8), fun i hi => ?_⟩
    rw [getD_ofList_toInt hdigit]
    exact (scRadix2w_signedRadix hlt h4 h8).range hi

/-- Settles O32: no carry leaves the last position, and the positions skipped keep nonzero digits apart. -/
theorem nafDigits : Obligations.NafDigits := by
  unfold Obligations.NafDigits
  intro s d a imm x hwf hx hlt
  obtain ⟨-, -, h2, h8⟩ := of_decide_eq_true hwf
  have hnaf : IsNaf imm.toNat (scNaf x.toNat imm.toNat) := nafLoop_isNaf h2 (by decide)
  have hdigit := hnaf.isDigit h8
  refine ⟨Digits.ofList (scNaf x.toNat imm.toNat), exec_of_withS hwf rfl hx, Digits.ofList_legal (by simp),
    scNaf_length .., (foldr_ofList 2 hdigit).trans (digitSum_scNaf hlt h2), fun i hi => ?_⟩
  rw [getD_ofList_toInt hdigit] at hi ⊢
  obtain ⟨hodd, hsmall, hzero⟩ := hnaf i hi
  refine ⟨hodd, hsmall, fun j hij hj => ?_⟩
  rw [getD_ofList, hzero j hij hj]
  rfl

end Sys2Proof.Machine

/-! SUPPORT. The group law over GF(p) (43_point.md R260): `d` is no square and −1 is one, so no denominator of the
addition law vanishes on the curve, and the sum of two points of the curve lies on it. -/
namespace Sys2Proof.Machine

theorem gfD_not_square (r : GF) : r ^ 2 ≠ gfD := gf_not_square feEdwardsD.fval (by decide +kernel) r

theorem eq_zero_of_sq_eq_gfD_mul_sq {u v : GF} (h : u ^ 2 = gfD * v ^ 2) : v = 0 := by
  have := Fact.mk p_prime
  by_contra hv
  refine gfD_not_square (u / v) ?_
  field_simp
  linear_combination h

/-- The denominator `d y² + 1` of decompression is never 0 (43_point.md R273). -/
theorem gfD_mul_sq_add_one_ne_zero (y : GF) : gfD * y ^ 2 + 1 ≠ 0 := by
  have := Fact.mk p_prime
  intro h
  obtain rfl : y = 0 := eq_zero_of_sq_eq_gfD_mul_sq (u := gfI) (by linear_combination gfI_sq - h)
  exact one_ne_zero (by linear_combination h)

theorem gfD_add_one_ne_zero : gfD + 1 ≠ 0 := by simpa using gfD_mul_sq_add_one_ne_zero 1

theorem onCurve_iff_sq_mul (x y : GF) : OnCurve x y ↔ x ^ 2 * (gfD * y ^ 2 + 1) = y ^ 2 - 1 := by
  rw [OnCurve]
  constructor <;> intro h <;> linear_combination -h

theorem onCurve_neg_iff (x y : GF) : OnCurve (-x) y ↔ OnCurve x y := by rw [OnCurve, OnCurve, neg_sq]

/-- The points of the curve with one `y` have `x` equal up to its sign. -/
theorem OnCurve.eq_or_neg {x x' y : GF} (h : OnCurve x y) (h' : OnCurve x' y) : x = x' ∨ x = -x' := by
  have := Fact.mk p_prime
  rw [onCurve_iff_sq_mul] at h h'
  exact sq_eq_sq_iff_eq_or_eq_neg.1 (mul_right_cancel₀ (gfD_mul_sq_add_one_ne_zero y) (h.trans h'.symm))

theorem OnCurve.eq_zero {x y : GF} (h : OnCurve x y) (h0 : OnCurve 0 y) : x = 0 := by
  simpa only [neg_zero, or_self] using h.eq_or_neg h0

/-- The product `d x₁ x₂ y₁ y₂` in the denominators of the addition law. -/
def gfDenom (a b : GF × GF) : GF := gfD * a.1 * b.1 * a.2 * b.2

theorem affAdd_eq (a b : GF × GF) : affAdd a b =
    ((a.1 * b.2 + b.1 * a.2) * gfInv (1 + gfDenom a b), (a.2 * b.2 + a.1 * b.1) * gfInv (1 - gfDenom a b)) := rfl

/-- Were the square of `e = d x₁ x₂ y₁ y₂` equal to 1, then `d (x₁ y₁ (i x₂ ± y₂))²` would be a square. -/
theorem sq_eq_gfD_mul_sq_of_denom {x₁ y₁ x₂ y₂ e s : GF} (h₁ : OnCurve x₁ y₁) (h₂ : OnCurve x₂ y₂)
    (he : e = gfD * x₁ * x₂ * y₁ * y₂) (he2 : e ^ 2 = 1) (hs : s ^ 2 = 1) :
    (gfI * x₁ + s * e * y₁) ^ 2 = gfD * (x₁ * y₁ * (gfI * x₂ + s * y₂)) ^ 2 := by
  rw [OnCurve] at h₁ h₂
  linear_combination (x₁ ^ 2 - gfD * x₁ ^ 2 * y₁ ^ 2 * x₂ ^ 2) * gfI_sq +
    (e ^ 2 * y₁ ^ 2 - gfD * x₁ ^ 2 * y₁ ^ 2 * y₂ ^ 2) * hs + (y₁ ^ 2 - 1) * he2 + h₁ -
    gfD * x₁ ^ 2 * y₁ ^ 2 * h₂ + (gfD * x₁ * x₂ * y₁ * y₂ + e + 2 * gfI * s * x₁ * y₁) * he

/-- The addition law is complete: `d` being no square, `x₁ y₁ (i x₂ + y₂)` and `x₁ y₁ (i x₂ - y₂)` would both be 0, and
with them the product. -/
theorem gfDenom_sq_ne_one {a b : GF × GF} (ha : OnCurve a.1 a.2) (hb : OnCurve b.1 b.2) : gfDenom a b ^ 2 ≠ 1 := by
  intro he
  have hplus := eq_zero_of_sq_eq_gfD_mul_sq (sq_eq_gfD_mul_sq_of_denom ha hb rfl he (s := 1) (by ring))
  have hminus := eq_zero_of_sq_eq_gfD_mul_sq (sq_eq_gfD_mul_sq_of_denom ha hb rfl he (s := -1) (by ring))
  refine gf_two_ne_zero ?_
  rw [gfDenom] at he
  linear_combination -2 * he + gfD * a.1 * b.1 * a.2 * b.2 * gfD * b.1 * (hplus - hminus)

theorem one_add_gfDenom_ne_zero {a b : GF × GF} (ha : OnCurve a.1 a.2) (hb : OnCurve b.1 b.2) :
    1 + gfDenom a b ≠ 0 := fun h => gfDenom_sq_ne_one ha hb (by linear_combination (gfDenom a b - 1) * h)

theorem one_sub_gfDenom_ne_zero {a b : GF × GF} (ha : OnCurve a.1 a.2) (hb : OnCurve b.1 b.2) :
    1 - gfDenom a b ≠ 0 := fun h => gfDenom_sq_ne_one ha hb (by linear_combination (-gfDenom a b - 1) * h)

/-- The coordinates of a sum, without the inversions. -/
theorem affAdd_mul_denom {a b : GF × GF} (ha : OnCurve a.1 a.2) (hb : OnCurve b.1 b.2) :
    (affAdd a b).1 * (1 + gfDenom a b) = a.1 * b.2 + b.1 * a.2 ∧
      (affAdd a b).2 * (1 - gfDenom a b) = a.2 * b.2 + a.1 * b.1 := by
  have hp := mul_gfInv (one_add_gfDenom_ne_zero ha hb)
  have hm := mul_gfInv (one_sub_gfDenom_ne_zero ha hb)
  rw [affAdd_eq]
  exact ⟨by linear_combination (a.1 * b.2 + b.1 * a.2) * hp, by linear_combination (a.2 * b.2 + a.1 * b.1) * hm⟩

/-- The curve equation of a sum in its numerators: with `e = d x² y²` of a summand, its own is `y² - x² = 1 + e`. -/
theorem sum_numerators_identity {x₁ y₁ x₂ y₂ k : GF} (h₁ : OnCurve x₁ y₁) (h₂ : OnCurve x₂ y₂)
    (hk : k = gfD * x₁ * x₂ * y₁ * y₂) :
    -((x₁ * y₂ + x₂ * y₁) * (1 - k)) ^ 2 + ((y₁ * y₂ + x₁ * x₂) * (1 + k)) ^ 2 =
      (1 - k ^ 2) ^ 2 + gfD * (x₁ * y₂ + x₂ * y₁) ^ 2 * (y₁ * y₂ + x₁ * x₂) ^ 2 := by
  rw [OnCurve] at h₁ h₂
  rw [hk]
  linear_combination
    ((y₂ ^ 2 - x₂ ^ 2) * (1 + (gfD * x₁ * x₂ * y₁ * y₂) ^ 2) -
      gfD * x₂ ^ 2 * y₂ ^ 2 * (y₁ ^ 2 - x₁ ^ 2 + 1 + gfD * x₁ ^ 2 * y₁ ^ 2)) * h₁ +
    ((1 + gfD * x₁ ^ 2 * y₁ ^ 2) * (1 + (gfD * x₁ * x₂ * y₁ * y₂) ^ 2) -
      gfD * x₁ ^ 2 * y₁ ^ 2 * (y₂ ^ 2 - x₂ ^ 2 + 1 + gfD * x₂ ^ 2 * y₂ ^ 2)) * h₂

/-- The sum of two points of the curve is a point of the curve (43_point.md R260). -/
theorem onCurve_affAdd {a b : GF × GF} (ha : OnCurve a.1 a.2) (hb : OnCurve b.1 b.2) :
    OnCurve (affAdd a b).1 (affAdd a b).2 := by
  have := Fact.mk p_prime
  obtain ⟨hx, hy⟩ := affAdd_mul_denom ha hb
  have hp := pow_ne_zero 2 (one_add_gfDenom_ne_zero ha hb)
  have hm := pow_ne_zero 2 (one_sub_gfDenom_ne_zero ha hb)
  have key := sum_numerators_identity ha hb (k := gfDenom a b) rfl
  rw [← hx, ← hy] at key
  exact mul_right_cancel₀ (mul_ne_zero hp hm) (by linear_combination key)

end Sys2Proof.Machine

/-! SUPPORT. What affine point a content stands for (43_point.md R261), and that every formula of 43_point.md on
contents that stand for points gives one that stands for the group law's result (R260, R265). -/
namespace Sys2Proof.Machine

/-! ### Contents that stand for a point -/

/-- The `EXT` components that stand for an affine point of the curve. -/
def GExt.Stands (e : GExt) (a : GF × GF) : Prop :=
  OnCurve a.1 a.2 ∧ ∃ z : GF, z ≠ 0 ∧ e = ⟨a.1 * z, a.2 * z, z, a.1 * a.2 * z⟩

/-- The `PROJ` components that stand for an affine point of the curve. -/
def GProj.Stands (e : GProj) (a : GF × GF) : Prop :=
  OnCurve a.1 a.2 ∧ ∃ z : GF, z ≠ 0 ∧ e = ⟨a.1 * z, a.2 * z, z⟩

/-- The `COMPL` components that stand for an affine point of the curve. -/
def GCompl.Stands (e : GCompl) (a : GF × GF) : Prop :=
  OnCurve a.1 a.2 ∧ ∃ z t : GF, z ≠ 0 ∧ t ≠ 0 ∧ e = ⟨a.1 * z, a.2 * t, z, t⟩

/-- The `PNIELS` components that stand for an affine point of the curve. -/
def GPNiels.Stands (n : GPNiels) (a : GF × GF) : Prop := ∃ e : GExt, e.Stands a ∧ n = e.toPN

/-- The `ANIELS` components that stand for an affine point of the curve. -/
def GANiels.Stands (n : GANiels) (a : GF × GF) : Prop :=
  OnCurve a.1 a.2 ∧ n = ⟨a.2 + a.1, a.2 - a.1, a.1 * a.2 * (2 * gfD)⟩

theorem mul_gfInv_mul (x : GF) {z : GF} (hz : z ≠ 0) : x * gfInv z * z = x := by
  linear_combination x * mul_gfInv hz

theorem GExt.Stands.valid {e : GExt} {a : GF × GF} : e.Stands a → e.Valid := by
  rintro ⟨ha, z, hz, rfl⟩
  rw [OnCurve] at ha
  exact ⟨hz, by dsimp only; ring, by dsimp only; linear_combination z ^ 4 * ha⟩

/-- A content stands for one affine point only. -/
theorem GExt.Stands.aff_eq {e : GExt} {a : GF × GF} : e.Stands a → e.aff = a := by
  rintro ⟨-, z, hz, rfl⟩
  have h := mul_gfInv hz
  refine Prod.ext ?_ ?_ <;> simp only [GExt.aff]
  · linear_combination a.1 * h
  · linear_combination a.2 * h

theorem GExt.Valid.stands {e : GExt} (h : e.Valid) : e.Stands e.aff := by
  have := Fact.mk p_prime
  obtain ⟨hz, hT, hc⟩ := h
  have hi := mul_gfInv hz
  have hX := (mul_gfInv_mul e.X hz).symm
  have hY := (mul_gfInv_mul e.Y hz).symm
  have hTz : e.T = e.X * gfInv e.Z * (e.Y * gfInv e.Z) * e.Z := by
    linear_combination -gfInv e.Z * hT - e.T * hi - e.X * e.Y * gfInv e.Z * hi
  refine ⟨?_, e.Z, hz, GExt.ext hX hY rfl hTz⟩
  refine mul_right_cancel₀ (pow_ne_zero 4 hz) ?_
  simp only [GExt.aff]
  generalize e.X * gfInv e.Z = x at *
  generalize e.Y * gfInv e.Z = y at *
  rw [hX, hY] at hc
  linear_combination hc

theorem GProj.valid_iff_exists_stands (e : GProj) : e.Valid ↔ ∃ a, e.Stands a := by
  have := Fact.mk p_prime
  constructor
  · rintro ⟨hz, hc⟩
    have hX := (mul_gfInv_mul e.X hz).symm
    have hY := (mul_gfInv_mul e.Y hz).symm
    refine ⟨(e.X * gfInv e.Z, e.Y * gfInv e.Z), ?_, e.Z, hz, GProj.ext hX hY rfl⟩
    refine mul_right_cancel₀ (pow_ne_zero 4 hz) ?_
    dsimp only
    generalize e.X * gfInv e.Z = x at *
    generalize e.Y * gfInv e.Z = y at *
    rw [hX, hY] at hc
    linear_combination hc
  · rintro ⟨a, ha, z, hz, rfl⟩
    rw [OnCurve] at ha
    exact ⟨hz, by dsimp only; linear_combination z ^ 4 * ha⟩

theorem GCompl.valid_iff_exists_stands (e : GCompl) : e.Valid ↔ ∃ a, e.Stands a := by
  have := Fact.mk p_prime
  constructor
  · rintro ⟨hz, ht, hc⟩
    have hX := (mul_gfInv_mul e.X hz).symm
    have hY := (mul_gfInv_mul e.Y ht).symm
    refine ⟨(e.X * gfInv e.Z, e.Y * gfInv e.T), ?_, e.Z, e.T, hz, ht, GCompl.ext hX hY rfl rfl⟩
    refine mul_right_cancel₀ (mul_ne_zero (pow_ne_zero 2 hz) (pow_ne_zero 2 ht)) ?_
    dsimp only
    generalize e.X * gfInv e.Z = x at *
    generalize e.Y * gfInv e.T = y at *
    rw [hX, hY] at hc
    linear_combination hc
  · rintro ⟨a, ha, z, t, hz, ht, rfl⟩
    rw [OnCurve] at ha
    exact ⟨hz, ht, by dsimp only; linear_combination z ^ 2 * t ^ 2 * ha⟩

/-! ### The formulas -/

section
variable {a b : GF × GF}

theorem GExt.Stands.toProj {e : GExt} : e.Stands a → e.toProj.Stands a := by
  rintro ⟨ha, z, hz, rfl⟩
  exact ⟨ha, z, hz, rfl⟩

theorem GExt.Stands.toPN {e : GExt} (h : e.Stands a) : e.toPN.Stands a := ⟨e, h, rfl⟩

theorem GExt.Stands.toAN {e : GExt} (h : e.Stands a) : e.toAN.Stands a := by
  rw [GExt.toAN, h.aff_eq]
  exact ⟨h.1, rfl⟩

theorem GProj.Stands.toExt {e : GProj} : e.Stands a → e.toExt.Stands a := by
  rintro ⟨ha, z, hz, rfl⟩
  have := Fact.mk p_prime
  exact ⟨ha, z ^ 2, pow_ne_zero 2 hz, by ext <;> simp only [GProj.toExt] <;> ring⟩

theorem GCompl.Stands.toProj {e : GCompl} : e.Stands a → e.toProj.Stands a := by
  rintro ⟨ha, z, t, hz, ht, rfl⟩
  have := Fact.mk p_prime
  exact ⟨ha, z * t, mul_ne_zero hz ht, by ext <;> simp only [GCompl.toProj] <;> ring⟩

theorem GCompl.Stands.toExt {e : GCompl} : e.Stands a → e.toExt.Stands a := by
  rintro ⟨ha, z, t, hz, ht, rfl⟩
  have := Fact.mk p_prime
  exact ⟨ha, z * t, mul_ne_zero hz ht, by ext <;> simp only [GCompl.toExt] <;> ring⟩

/-- A doubling: by the curve equation, its denominators are those of the addition law (R281). -/
theorem GProj.Stands.dbl {e : GProj} : e.Stands a → e.dbl.Stands (affAdd a a) := by
  rintro ⟨ha, z, hz, rfl⟩
  have := Fact.mk p_prime
  obtain ⟨hx, hy⟩ := affAdd_mul_denom ha ha
  have hc := ha
  rw [OnCurve] at hc
  refine ⟨onCurve_affAdd ha ha, z ^ 2 * (1 + gfDenom a a), z ^ 2 * (1 - gfDenom a a),
    mul_ne_zero (pow_ne_zero 2 hz) (one_add_gfDenom_ne_zero ha ha),
    mul_ne_zero (pow_ne_zero 2 hz) (one_sub_gfDenom_ne_zero ha ha), ?_⟩
  ext <;> simp only [GProj.dbl]
  · linear_combination -z ^ 2 * hx
  · linear_combination -z ^ 2 * hy
  · rw [gfDenom]; linear_combination z ^ 2 * hc
  · rw [gfDenom]; linear_combination -z ^ 2 * hc

/-- An addition of a `PNIELS` operand (R282). -/
theorem GExt.Stands.addPN {e : GExt} {n : GPNiels} : e.Stands a → n.Stands b → (e.addPN n).Stands (affAdd a b) := by
  rintro ⟨ha, z, hz, rfl⟩ ⟨-, ⟨hb, w, hw, rfl⟩, rfl⟩
  have := Fact.mk p_prime
  obtain ⟨hx, hy⟩ := affAdd_mul_denom ha hb
  have h2 : 2 * z * w ≠ 0 := mul_ne_zero (mul_ne_zero gf_two_ne_zero hz) hw
  refine ⟨onCurve_affAdd ha hb, 2 * z * w * (1 + gfDenom a b), 2 * z * w * (1 - gfDenom a b),
    mul_ne_zero h2 (one_add_gfDenom_ne_zero ha hb), mul_ne_zero h2 (one_sub_gfDenom_ne_zero ha hb), ?_⟩
  ext <;> simp only [GExt.addPN, GExt.toPN]
  · linear_combination -2 * z * w * hx
  · linear_combination -2 * z * w * hy
  · rw [gfDenom]; ring
  · rw [gfDenom]; ring

/-- The `PNIELS` operand with `Z = 1` in place of an `ANIELS` one. -/
def GANiels.toPN (n : GANiels) : GPNiels := ⟨n.ypx, n.ymx, 1, n.xy2d⟩

theorem GANiels.Stands.toPN {n : GANiels} : n.Stands a → n.toPN.Stands a := by
  rintro ⟨ha, rfl⟩
  have := Fact.mk p_prime
  exact ⟨⟨a.1, a.2, 1, a.1 * a.2⟩, ⟨ha, 1, one_ne_zero, by simp only [mul_one]⟩, rfl⟩

theorem GExt.addAN_eq (e : GExt) (n : GANiels) : e.addAN n = e.addPN n.toPN := by
  simp only [GExt.addAN, GExt.addPN, GANiels.toPN, mul_one]

theorem GExt.subPN_eq (e : GExt) (n : GPNiels) : e.subPN n = e.addPN n.neg := by
  ext <;> simp only [GExt.subPN, GExt.addPN, GPNiels.neg] <;> ring

theorem GExt.subAN_eq (e : GExt) (n : GANiels) : e.subAN n = e.subPN n.toPN := by
  simp only [GExt.subAN, GExt.subPN, GANiels.toPN, mul_one]

/-- The negation of an affine point (43_point.md R260). -/
def affNeg (a : GF × GF) : GF × GF := (-a.1, a.2)

theorem GExt.Stands.neg {e : GExt} : e.Stands a → e.neg.Stands (affNeg a) := by
  rintro ⟨ha, z, hz, rfl⟩
  exact ⟨(onCurve_neg_iff ..).2 ha, z, hz, by ext <;> simp only [GExt.neg, affNeg] <;> ring⟩

theorem GPNiels.Stands.neg {n : GPNiels} : n.Stands a → n.neg.Stands (affNeg a) := by
  rintro ⟨e, h, rfl⟩
  exact ⟨e.neg, h.neg, by ext <;> simp only [GPNiels.neg, GExt.neg, GExt.toPN] <;> ring⟩

theorem GANiels.Stands.neg {n : GANiels} : n.Stands a → n.neg.Stands (affNeg a) := by
  rintro ⟨ha, rfl⟩
  exact ⟨(onCurve_neg_iff ..).2 ha, by ext <;> simp only [GANiels.neg, affNeg] <;> ring⟩

theorem GExt.Stands.addAN {e : GExt} {n : GANiels} (h : e.Stands a) (k : n.Stands b) :
    (e.addAN n).Stands (affAdd a b) := by
  rw [GExt.addAN_eq]
  exact h.addPN k.toPN

theorem GExt.Stands.subPN {e : GExt} {n : GPNiels} (h : e.Stands a) (k : n.Stands b) :
    (e.subPN n).Stands (affAdd a (affNeg b)) := by
  rw [GExt.subPN_eq]
  exact h.addPN k.neg

theorem GExt.Stands.subAN {e : GExt} {n : GANiels} (h : e.Stands a) (k : n.Stands b) :
    (e.subAN n).Stands (affAdd a (affNeg b)) := by
  rw [GExt.subAN_eq]
  exact h.subPN k.toPN

theorem GExt.Stands.add {e f : GExt} (h : e.Stands a) (k : f.Stands b) : (e.add f).Stands (affAdd a b) :=
  (h.addPN k.toPN).toExt

theorem GExt.Stands.sub {e f : GExt} (h : e.Stands a) (k : f.Stands b) : (e.sub f).Stands (affAdd a (affNeg b)) :=
  (h.subPN k.toPN).toExt

theorem GExt.Stands.dbl {e : GExt} (h : e.Stands a) : e.dbl.Stands (affAdd a a) := h.toProj.dbl.toExt

end

end Sys2Proof.Machine

/-! SUPPORT. Register contents that stand for a point (43_point.md R261): loose limbs whose components stand for it.
Every operation of the point engine and of the multipliers answers such a content from such contents (R265). -/
namespace Sys2Proof.Machine

/-! ### Contents at a point -/

theorem Ext.is_gf {e : Ext} (h : e.Below 54) : e.Is e.gf := (e.is_iff _).2 ⟨h, rfl⟩
theorem Proj.is_gf {e : Proj} (h : e.Below 54) : e.Is e.gf := (e.is_iff _).2 ⟨h, rfl⟩
theorem Compl.is_gf {e : Compl} (h : e.Below 54) : e.Is e.gf := (e.is_iff _).2 ⟨h, rfl⟩
theorem PNiels.is_gf {n : PNiels} (h : n.Below 54) : n.Is n.gf := (n.is_iff _).2 ⟨h, rfl⟩
theorem ANiels.is_gf {n : ANiels} (h : n.Below 54) : n.Is n.gf := (n.is_iff _).2 ⟨h, rfl⟩

/-- A content whose value stands for the point `a`: `R` says what its value is, `S` what the value stands for. -/
def AtPoint {α β : Type} (R : α → β → Prop) (S : β → GF × GF → Prop) (x : α) (a : GF × GF) : Prop := ∃ v, R x v ∧ S v a

/-- An `EXT` content that stands for a point. -/
abbrev Ext.At : Ext → GF × GF → Prop := AtPoint Ext.Is GExt.Stands
/-- A `PROJ` content that stands for a point. -/
abbrev Proj.At : Proj → GF × GF → Prop := AtPoint Proj.Is GProj.Stands
/-- A `COMPL` content that stands for a point. -/
abbrev Compl.At : Compl → GF × GF → Prop := AtPoint Compl.Is GCompl.Stands
/-- A `PNIELS` content that stands for a point. -/
abbrev PNiels.At : PNiels → GF × GF → Prop := AtPoint PNiels.Is GPNiels.Stands
/-- An `ANIELS` content that stands for a point. -/
abbrev ANiels.At : ANiels → GF × GF → Prop := AtPoint ANiels.Is GANiels.Stands

section
variable {a b : GF × GF}

theorem e2p_at {e : Ext} : e.At a → (e2p e).At a
  | ⟨_, h, s⟩ => ⟨_, e2p_is h, s.toProj⟩
theorem e2pn_at {e : Ext} : e.At a → (e2pn e).At a
  | ⟨_, h, s⟩ => ⟨_, e2pn_is h, s.toPN⟩
theorem e2an_at {e : Ext} : e.At a → (e2an e).At a
  | ⟨_, h, s⟩ => ⟨_, e2an_is h, s.toAN⟩
theorem p2e_at {e : Proj} : e.At a → (p2e e).At a
  | ⟨_, h, s⟩ => ⟨_, p2e_is h, s.toExt⟩
theorem c2p_at {e : Compl} : e.At a → (c2p e).At a
  | ⟨_, h, s⟩ => ⟨_, c2p_is h, s.toProj⟩
theorem c2e_at {e : Compl} : e.At a → (c2e e).At a
  | ⟨_, h, s⟩ => ⟨_, c2e_is h, s.toExt⟩
theorem dbl_at {e : Proj} : e.At a → (dbl e).At (affAdd a a)
  | ⟨_, h, s⟩ => ⟨_, dbl_is h, s.dbl⟩
theorem addPN_at {e : Ext} {n : PNiels} : e.At a → n.At b → (addPN e n).At (affAdd a b)
  | ⟨_, h, s⟩, ⟨_, k, t⟩ => ⟨_, addPN_is h k, s.addPN t⟩
theorem addAN_at {e : Ext} {n : ANiels} : e.At a → n.At b → (addAN e n).At (affAdd a b)
  | ⟨_, h, s⟩, ⟨_, k, t⟩ => ⟨_, addAN_is h k, s.addAN t⟩
theorem subPN_at {e : Ext} {n : PNiels} : e.At a → n.At b → (subPN e n).At (affAdd a (affNeg b))
  | ⟨_, h, s⟩, ⟨_, k, t⟩ => ⟨_, subPN_is h k, s.subPN t⟩
theorem subAN_at {e : Ext} {n : ANiels} : e.At a → n.At b → (subAN e n).At (affAdd a (affNeg b))
  | ⟨_, h, s⟩, ⟨_, k, t⟩ => ⟨_, subAN_is h k, s.subAN t⟩
theorem eadd_at {e f : Ext} : e.At a → f.At b → (eadd e f).At (affAdd a b)
  | ⟨_, h, s⟩, ⟨_, k, t⟩ => ⟨_, eadd_is h k, s.add t⟩
theorem esub_at {e f : Ext} : e.At a → f.At b → (esub e f).At (affAdd a (affNeg b))
  | ⟨_, h, s⟩, ⟨_, k, t⟩ => ⟨_, esub_is h k, s.sub t⟩
theorem edbl_at {e : Ext} : e.At a → (edbl e).At (affAdd a a)
  | ⟨_, h, s⟩ => ⟨_, edbl_is h, s.dbl⟩
theorem negExt_at {e : Ext} : e.At a → (negExt e).At (affNeg a)
  | ⟨_, h, s⟩ => ⟨_, negExt_is h, s.neg⟩
theorem negPN_at {n : PNiels} : n.At a → (negPN n).At (affNeg a)
  | ⟨_, h, s⟩ => ⟨_, negPN_is h, s.neg⟩
theorem negAN_at {n : ANiels} : n.At a → (negAN n).At (affNeg a)
  | ⟨_, h, s⟩ => ⟨_, negAN_is h, s.neg⟩

/-- Multiplication by the cofactor is three doublings (R291). -/
theorem mulcof_at {e : Ext} (h : e.At a) :
    (mulcof e).At (affAdd (affAdd (affAdd a a) (affAdd a a)) (affAdd (affAdd a a) (affAdd a a))) :=
  c2e_at (dbl_at (c2p_at (dbl_at (c2p_at (dbl_at (e2p_at h))))))

end

/-! ### Sound contents -/

/-- Loose limbs, and a point the content stands for. -/
def Point.Sound : Point → Prop
  | .ext e => ∃ a, e.At a
  | .proj e => ∃ a, e.At a
  | .compl e => ∃ a, e.At a
  | .pniels n => ∃ a, n.At a
  | .aniels n => ∃ a, n.At a

/-- Where `R` pins the value to `v`, a content is at the points `v` stands for. -/
theorem atPoint_iff {α β : Type} {R : α → β → Prop} {S : β → GF × GF → Prop} {x : α} {B : Prop} {v : β}
    (hR : ∀ w, R x w ↔ B ∧ v = w) (a : GF × GF) : AtPoint R S x a ↔ B ∧ S v a := by
  simp only [AtPoint, hR, and_assoc, exists_and_left, exists_eq_left']

theorem Ext.at_iff (e : Ext) (a : GF × GF) : e.At a ↔ e.Below 54 ∧ e.gf.Stands a := atPoint_iff e.is_iff a
theorem Proj.at_iff (e : Proj) (a : GF × GF) : e.At a ↔ e.Below 54 ∧ e.gf.Stands a := atPoint_iff e.is_iff a
theorem Compl.at_iff (e : Compl) (a : GF × GF) : e.At a ↔ e.Below 54 ∧ e.gf.Stands a := atPoint_iff e.is_iff a
theorem PNiels.at_iff (n : PNiels) (a : GF × GF) : n.At a ↔ n.Below 54 ∧ n.gf.Stands a := atPoint_iff n.is_iff a
theorem ANiels.at_iff (n : ANiels) (a : GF × GF) : n.At a ↔ n.Below 54 ∧ n.gf.Stands a := atPoint_iff n.is_iff a

theorem Ext.at_aff {e : Ext} (hb : e.Below 54) (hv : e.gf.Valid) : e.At e.gf.aff := (e.at_iff _).2 ⟨hb, hv.stands⟩

theorem Ext.exists_at_iff (e : Ext) : (∃ a, e.At a) ↔ e.Below 54 ∧ e.gf.Valid := by
  simp only [Ext.at_iff, exists_and_left]
  exact and_congr_right fun _ => ⟨fun ⟨_, h⟩ => h.valid, fun h => ⟨_, h.stands⟩⟩

/-- Sound contents are the valid ones of 43_point.md R261 with loose limbs. -/
theorem Point.sound_iff (q : Point) : q.Sound ↔ q.Below 54 ∧ q.Valid := by
  cases q with
  | ext e => exact e.exists_at_iff
  | proj e => simp only [Sound, Below, Valid, Proj.at_iff, exists_and_left, GProj.valid_iff_exists_stands]
  | compl e => simp only [Sound, Below, Valid, Compl.at_iff, exists_and_left, GCompl.valid_iff_exists_stands]
  | pniels n =>
    simp only [Sound, Below, Valid, PNiels.at_iff, exists_and_left]
    refine and_congr_right fun _ => ⟨?_, ?_⟩
    · rintro ⟨a, e, h, hn⟩
      exact ⟨e, h.valid, hn⟩
    · rintro ⟨e, h, hn⟩
      exact ⟨_, e, h.stands, hn⟩
  | aniels n => simp only [Sound, Below, Valid, ANiels.at_iff, exists_and_left, GANiels.Stands, Prod.exists]

theorem Ext.At.sound {e : Ext} {a : GF × GF} (h : e.At a) : (Point.ext e).Sound := ⟨a, h⟩
theorem Proj.At.sound {e : Proj} {a : GF × GF} (h : e.At a) : (Point.proj e).Sound := ⟨a, h⟩
theorem Compl.At.sound {e : Compl} {a : GF × GF} (h : e.At a) : (Point.compl e).Sound := ⟨a, h⟩
theorem PNiels.At.sound {n : PNiels} {a : GF × GF} (h : n.At a) : (Point.pniels n).Sound := ⟨a, h⟩
theorem ANiels.At.sound {n : ANiels} {a : GF × GF} (h : n.At a) : (Point.aniels n).Sound := ⟨a, h⟩

end Sys2Proof.Machine

/-! SUPPORT. The multipliers on sound contents (44_scalarmul_msm.md): every table entry and every accumulator stands
for a point of the curve, whatever the digits are. -/
namespace Sys2Proof.Machine

/-! ### The identity (43_point.md R262) -/

theorem feOne_is : feOne.Is 1 := ⟨by decide, by rw [Fe.gf_of_fval (n := 1) (by decide), Nat.cast_one]⟩
theorem feZero_is : feZero.Is 0 := ⟨by decide, by rw [Fe.gf_of_fval (n := 0) (by decide), Nat.cast_zero]⟩

theorem onCurve_identity : OnCurve 0 1 := by rw [OnCurve]; ring

theorem gIdentity_stands : gIdentity.Stands (0, 1) := by
  have := Fact.mk p_prime
  exact ⟨onCurve_identity, 1, one_ne_zero, by simp only [gIdentity, mul_one]⟩

theorem extIdentity_at : extIdentity.At (0, 1) :=
  ⟨gIdentity, ⟨feZero_is, feOne_is, feOne_is, feZero_is⟩, gIdentity_stands⟩

theorem projIdentity_at : projIdentity.At (0, 1) :=
  ⟨gIdentity.toProj, ⟨feZero_is, feOne_is, feOne_is⟩, gIdentity_stands.toProj⟩

theorem anielsIdentity_at : anielsIdentity.At (0, 1) := by
  refine ⟨⟨1, 1, 0⟩, ⟨feOne_is, feOne_is, feZero_is⟩, onCurve_identity, ?_⟩
  simp only [add_zero, sub_zero, zero_mul]

theorem pnielsIdentity_at : pnielsIdentity.At (0, 1) := by
  refine ⟨⟨1, 1, 1, 0⟩, ⟨feOne_is, feOne_is, feOne_is, feZero_is⟩, gIdentity, gIdentity_stands, ?_⟩
  simp only [gIdentity, GExt.toPN, add_zero, sub_zero, zero_mul]

/-! ### Tables -/

/-- A table whose entries are sound. -/
def TableSound (t : List PNiels) : Prop := ∀ n ∈ t, (Point.pniels n).Sound

theorem tableFrom_sound {q : Ext} {t : PNiels} (hq : (Point.ext q).Sound) (ht : (Point.pniels t).Sound) (n : Nat) :
    TableSound (tableFrom q t n) := by
  obtain ⟨_, hq⟩ := hq
  induction n generalizing t with
  | zero => exact List.forall_mem_nil _
  | succ n ih =>
    obtain ⟨_, ht⟩ := ht
    have h := (e2pn_at (c2e_at (addPN_at hq ht))).sound
    rw [tableFrom, strictPN_eq]
    exact List.forall_mem_cons.2 ⟨h, ih h⟩

theorem lutBuild_sound {e : Ext} (h : (Point.ext e).Sound) : TableSound (lutBuild e) := by
  obtain ⟨_, he⟩ := h
  rw [lutBuild, strictPN_eq]
  exact List.forall_mem_cons.2 ⟨(e2pn_at he).sound, tableFrom_sound he.sound (e2pn_at he).sound 7⟩

theorem naf5Build_sound {e : Ext} (h : (Point.ext e).Sound) : TableSound (naf5Build e) := by
  obtain ⟨_, he⟩ := h
  rw [naf5Build, strictExt_eq, strictPN_eq]
  exact List.forall_mem_cons.2 ⟨(e2pn_at he).sound, tableFrom_sound (edbl_at he).sound (e2pn_at he).sound 7⟩

theorem lutScan_sound (x : BitVec 16) {t : List PNiels} (ht : TableSound t) (j : Nat) {r : PNiels}
    (hr : (Point.pniels r).Sound) : (Point.pniels (lutScan x t j r)).Sound := by
  induction t generalizing j r with
  | nil => exact hr
  | cons n t ih =>
    obtain ⟨hn, ht⟩ := List.forall_mem_cons.1 ht
    rw [lutScan, strictPN_eq, selPN_eq]
    refine ih ht (j + 1) ?_
    split
    · exact hn
    · exact hr

theorem lutSelect_sound {t : List PNiels} (ht : TableSound t) (x : Byte) : (Point.pniels (lutSelect t x)).Sound := by
  obtain ⟨_, h⟩ := lutScan_sound (absDigit x) ht 1 pnielsIdentity_at.sound
  rw [lutSelect, cnegPN_eq]
  split
  · exact (negPN_at h).sound
  · exact h.sound

/-- What holds of every entry of a table and of the identity holds of whatever a digit selects. -/
theorem getD_of_forall_mem {α : Type} {P : α → Prop} {l : List α} {d : α} (hl : ∀ x ∈ l, P x) (hd : P d) (k : Nat) :
    P (l.getD k d) := by
  rcases lt_or_ge k l.length with h | h
  · rw [List.getD_eq_getElem _ _ h]
    exact hl _ (List.getElem_mem h)
  · rw [List.getD_eq_default _ _ h]
    exact hd

theorem table_getD_sound {t : List PNiels} (ht : TableSound t) (k : Nat) :
    (Point.pniels (t.getD k pnielsIdentity)).Sound :=
  getD_of_forall_mem (P := fun n => (Point.pniels n).Sound) ht pnielsIdentity_at.sound k

/-- With `u = y + x` and `v = y - x`, the curve equation and the third component of an affine Niels form, both without a
division: `u v = 1 + c (u² - v²) / 8` and `c = d (u² - v²) / 2`. -/
def anielsCheck (n : ANiels) : Bool :=
  let u := n.ypx.fval
  let v := n.ymx.fval
  let c := n.xy2d.fval
  (2 * c + feEdwardsD.fval * v ^ 2) % p == feEdwardsD.fval * u ^ 2 % p &&
    (8 * u * v + c * v ^ 2) % p == (8 + c * u ^ 2) % p

theorem gf_half_add (u : GF) : u * gfInv 2 + u * gfInv 2 = u := by
  linear_combination u * mul_gfInv gf_two_ne_zero

theorem aniels_stands_of_check {n : ANiels} (h : anielsCheck n = true) : ∃ a, n.gf.Stands a := by
  have := Fact.mk p_prime
  rw [anielsCheck, Bool.and_eq_true, beq_iff_eq, beq_iff_eq, ← gf_natCast_eq_iff, ← gf_natCast_eq_iff] at h
  push_cast at h
  obtain ⟨hT, hC⟩ : 2 * n.xy2d.gf + gfD * n.ymx.gf ^ 2 = gfD * n.ypx.gf ^ 2 ∧
    8 * n.ypx.gf * n.ymx.gf + n.xy2d.gf * n.ymx.gf ^ 2 = 8 + n.xy2d.gf * n.ypx.gf ^ 2 := h
  rw [ANiels.gf]
  generalize n.ypx.gf = u, n.ymx.gf = v, n.xy2d.gf = c at hT hC
  obtain ⟨y, hy⟩ : ∃ y, u + v = 2 * y := ⟨(u + v) * gfInv 2, by linear_combination -gf_half_add (u + v)⟩
  obtain ⟨x, hx⟩ : ∃ x, u - v = 2 * x := ⟨(u - v) * gfInv 2, by linear_combination -gf_half_add (u - v)⟩
  have h8 : (8 : GF) ≠ 0 := by
    rw [show (8 : GF) = 2 ^ 3 by norm_num]
    exact pow_ne_zero 3 gf_two_ne_zero
  obtain rfl : u = y + x := mul_left_cancel₀ gf_two_ne_zero (by linear_combination hx + hy)
  obtain rfl : v = y - x := mul_left_cancel₀ gf_two_ne_zero (by linear_combination hy - hx)
  obtain rfl : c = x * y * (2 * gfD) := mul_left_cancel₀ gf_two_ne_zero (by linear_combination hT)
  refine ⟨(x, y), ?_, rfl⟩
  rw [OnCurve]
  exact mul_left_cancel₀ h8 (by linear_combination hC)

/-- Every entry of the basepoint table lies on the curve (R327). -/
theorem baseTable_check : baseTable.all anielsCheck = true := by decide +kernel

theorem baseTable_sound {n : ANiels} (h : n ∈ baseTable) : (Point.aniels n).Sound := by
  obtain ⟨v, hv, -⟩ := baseTable_alike n h
  obtain ⟨hb, -⟩ := (n.is_iff v).1 hv
  obtain ⟨a, ha⟩ := aniels_stands_of_check (List.all_eq_true.1 baseTable_check n h)
  exact ⟨a, (n.at_iff a).2 ⟨hb, ha⟩⟩

theorem baseTable_getD_sound (k : Nat) : (Point.aniels (baseTable.getD k anielsIdentity)).Sound :=
  getD_of_forall_mem (P := fun n => (Point.aniels n).Sound) (fun _ => baseTable_sound) anielsIdentity_at.sound k

/-! ### Multipliers -/

theorem dbl4_sound {acc : Compl} : (Point.compl acc).Sound → (Point.compl (dbl4 acc)).Sound
  | ⟨_, h⟩ => by
    simp only [dbl4, strictCompl_eq]
    exact (dbl_at (c2p_at (dbl_at (c2p_at (dbl_at (c2p_at (dbl_at (c2p_at h)))))))).sound

theorem smulLoop_sound {t : List PNiels} (ht : TableSound t) (e : List Int) (i : Nat) {acc : Compl}
    (h : (Point.compl acc).Sound) : (Point.compl (smulLoop t e i acc)).Sound := by
  induction i generalizing acc with
  | zero => exact h
  | succ i ih =>
    obtain ⟨_, h4⟩ := dbl4_sound h
    obtain ⟨_, hn⟩ := lutSelect_sound ht (digitByte (e.getD i 0))
    simp only [smulLoop, strictCompl_eq]
    exact ih (addPN_at (c2e_at h4) hn).sound

/-- PT_SMUL (R325). -/
theorem smul_sound {q : Ext} (h : (Point.ext q).Sound) (n : Nat) : (Point.ext (smul q n)).Sound := by
  have ht := lutBuild_sound h
  obtain ⟨_, hn⟩ := lutSelect_sound ht (digitByte ((scRadix16 n).getD 63 0))
  obtain ⟨_, hacc⟩ := smulLoop_sound ht (scRadix16 n) 63 (addPN_at extIdentity_at hn).sound
  simp only [smul, strictCompl_eq]
  exact (c2e_at hacc).sound

theorem applyPN_sound {t : List PNiels} (ht : TableSound t) (x : Int) {acc : Compl} (h : (Point.compl acc).Sound) :
    (Point.compl (applyPN t x acc)).Sound := by
  obtain ⟨_, hacc⟩ := h
  unfold applyPN
  split
  · obtain ⟨_, hn⟩ := table_getD_sound ht ((x - 1) / 2).toNat
    exact (addPN_at (c2e_at hacc) hn).sound
  · split
    · obtain ⟨_, hn⟩ := table_getD_sound ht ((-x - 1) / 2).toNat
      exact (subPN_at (c2e_at hacc) hn).sound
    · exact hacc.sound

theorem applyAN_sound (x : Int) {acc : Compl} (h : (Point.compl acc).Sound) :
    (Point.compl (applyAN baseTable x acc)).Sound := by
  obtain ⟨_, hacc⟩ := h
  unfold applyAN
  split
  · obtain ⟨_, hn⟩ := baseTable_getD_sound ((x - 1) / 2).toNat
    exact (addAN_at (c2e_at hacc) hn).sound
  · split
    · obtain ⟨_, hn⟩ := baseTable_getD_sound ((-x - 1) / 2).toNat
      exact (subAN_at (c2e_at hacc) hn).sound
    · exact hacc.sound

theorem dsmbStep_sound (an bn : List Int) {t : List PNiels} (ht : TableSound t) (i : Nat) {r : Proj}
    (h : (Point.proj r).Sound) : (Point.proj (dsmbStep an bn t i r)).Sound := by
  obtain ⟨_, hr⟩ := h
  obtain ⟨_, hacc⟩ := applyAN_sound (bn.getD i 0) (applyPN_sound ht (an.getD i 0) (dbl_at hr).sound)
  simp only [dsmbStep, strictCompl_eq]
  exact (c2p_at hacc).sound

theorem dsmbLoop_sound (an bn : List Int) {t : List PNiels} (ht : TableSound t) (i : Nat) {r : Proj}
    (h : (Point.proj r).Sound) : (Point.proj (dsmbLoop an bn t i r)).Sound := by
  induction i generalizing r with
  | zero => exact dsmbStep_sound an bn ht 0 h
  | succ i ih =>
    rw [dsmbLoop, strictProj_eq]
    exact ih (dsmbStep_sound an bn ht (i + 1) h)

/-- PT_DSMB (R329). -/
theorem dsmb_sound (a : Nat) {q : Ext} (h : (Point.ext q).Sound) (b : Nat) : (Point.ext (dsmb a q b)).Sound := by
  obtain ⟨_, hr⟩ := dsmbLoop_sound (scNaf a NAF_W_A) (scNaf b NAF_W_B) (naf5Build_sound h)
    (topIndex (scNaf a NAF_W_A) (scNaf b NAF_W_B) 255) projIdentity_at.sound
  exact (p2e_at hr).sound

theorem msmApply_sound (i : Nat) {prs : List (List Int × List PNiels)} (hp : ∀ pr ∈ prs, TableSound pr.2) {acc : Compl}
    (h : (Point.compl acc).Sound) : (Point.compl (msmApply i prs acc)).Sound := by
  induction prs generalizing acc with
  | nil => exact h
  | cons pr prs ih =>
    obtain ⟨hpr, hp⟩ := List.forall_mem_cons.1 hp
    rw [msmApply, strictCompl_eq]
    exact ih hp (applyPN_sound hpr _ h)

theorem msmLoop_sound {prs : List (List Int × List PNiels)} (hp : ∀ pr ∈ prs, TableSound pr.2) (i : Nat) {r : Proj}
    (h : (Point.proj r).Sound) : (Point.proj (msmLoop prs i r)).Sound := by
  induction i generalizing r with
  | zero => exact h
  | succ i ih =>
    obtain ⟨_, hr⟩ := h
    obtain ⟨_, hacc⟩ := msmApply_sound i hp (dbl_at hr).sound
    simp only [msmLoop, strictCompl_eq, strictProj_eq]
    exact ih (c2p_at hacc).sound

/-- MSM_RUN (R333). -/
theorem msmSum_sound {l : List MsmPair} (h : ∀ m ∈ l, (Point.ext m.point).Sound) : (Point.ext (msmSum l)).Sound := by
  have hp : ∀ pr ∈ l.map msmPrepare, TableSound pr.2 := List.forall_mem_map.2 fun m hm => naf5Build_sound (h m hm)
  obtain ⟨_, hr⟩ := msmLoop_sound hp 256 projIdentity_at.sound
  exact (p2e_at hr).sound

end Sys2Proof.Machine

/-! SUPPORT. Decompression (43_point.md R273): the point of an encoding's `y` and sign bit where there is one, and none
elsewhere. -/
namespace Sys2Proof.Machine

/-! ### Signs (00_scope.md R8) -/

theorem Fe.val_gf (x : Fe) : x.gf.val = x.fval := ZMod.val_natCast_of_lt x.fval_lt

/-- The negation of a nonzero value has the other parity. -/
theorem gf_val_neg {x : GF} (hx : x ≠ 0) : (-x).val % 2 = 1 - x.val % 2 := by
  have := Fact.mk p_prime
  have hlt := x.val_lt
  have hp : p % 2 = 1 := by decide
  rw [ZMod.neg_val, if_neg hx]
  omega

/-- `x` has the sign bit's parity, or is 0, of which both signs are. -/
def HasSign (sign : Bool) (x : GF) : Prop := x = 0 ∨ x.val % 2 = sign.toNat

/-- Of a value that is not 0 and its negation, only one has the sign. -/
theorem HasSign.eq_of_eq_or_neg {sign : Bool} {x x' : GF} (h : HasSign sign x) (h' : HasSign sign x')
    (hx : x = x' ∨ x = -x') : x = x' := by
  obtain rfl | rfl := hx
  · rfl
  · obtain rfl | h0 := eq_or_ne x' 0
    · exact neg_zero
    · have hval := gf_val_neg h0
      have hs : sign.toNat ≤ 1 := Bool.toNat_le sign
      have h := h.resolve_left (neg_ne_zero.2 h0)
      have h' := h'.resolve_left h0
      omega

/-- An even value, negated where the sign bit says so, has the sign. -/
theorem hasSign_ite_neg {x : GF} (hx : x.val % 2 = 0) (sign : Bool) : HasSign sign (if sign then -x else x) := by
  cases sign with
  | false => exact .inr hx
  | true =>
    obtain rfl | h0 := eq_or_ne x 0
    · exact .inl neg_zero
    · exact .inr (by rw [if_pos rfl, gf_val_neg h0, hx]; rfl)

/-! ### Decompression (R273) -/

/-- The sign bit of a compressed point: bit 7 of its last byte. -/
def signOf (bs : List Byte) : Bool := (bs.getD 31 0).getLsbD 7

/-- The `y` of a compressed point. -/
def yOf (bs : List Byte) : GF := ((le bs % 2 ^ 255 : Nat) : GF)

/-- The numerator and the denominator of `x²`. -/
def decompRatio (bs : List Byte) : Fe × Fe :=
  (feSub (feSq (feFromBytes bs)) feOne, feAdd (feMul feEdwardsD (feSq (feFromBytes bs))) feOne)

theorem feFromBytes_is (bs : List Byte) : (feFromBytes bs).Is (yOf bs) :=
  ⟨(feFromBytes_below bs).mono (by decide), by rw [feFromBytes_eq, Fe.gf_ofValue (Nat.mod_lt _ (by decide)), yOf]⟩

theorem decompRatio_is (bs : List Byte) :
    (decompRatio bs).1.Is (yOf bs ^ 2 - 1) ∧ (decompRatio bs).2.Is (gfD * yOf bs ^ 2 + 1) := by
  have hyy := feSq_is (feFromBytes_is bs)
  have hd : feEdwardsD.Is gfD := ⟨by decide, rfl⟩
  exact ⟨feSub_is hyy feOne_is, feAdd_is (feMul_is hd hyy) feOne_is⟩

/-- The root decompression takes. -/
def decompRoot (bs : List Byte) : Bool × Fe := feSqrtRatio (decompRatio bs).1 (decompRatio bs).2

theorem decompress_eq (reject : Bool) (bs : List Byte) : decompress reject bs =
    if (decompRoot bs).1 = false then none
    else if signOf bs = true ∧ feIsZero (decompRoot bs).2 = true ∧ reject = true then none
    else some ⟨feCneg (decompRoot bs).2 (signOf bs), feFromBytes bs, feOne,
      feMul (feCneg (decompRoot bs).2 (signOf bs)) (feFromBytes bs)⟩ := by
  simp only [decompress, strictFe_eq]
  rfl

theorem decompRoot_below (bs : List Byte) : (decompRoot bs).2.Below 54 := (feSqrtRatio_below53 ..).mono (by decide)

theorem decompRoot_even (bs : List Byte) : (decompRoot bs).2.gf.val % 2 = 0 := by
  obtain ⟨⟨hu, -⟩, hv, -⟩ := decompRatio_is bs
  rw [Fe.val_gf]
  exact (feSqrtRatio_snd_even_and_sign hu hv).1

/-- The root is found exactly where the curve has a point of this `y`. -/
theorem decompRoot_fst_iff (bs : List Byte) : (decompRoot bs).1 = true ↔ ∃ x, OnCurve x (yOf bs) := by
  obtain ⟨⟨hu, eu⟩, hv, ev⟩ := decompRatio_is bs
  rw [decompRoot, feSqrtRatio_fst_iff_square hu hv (ev ▸ gfD_mul_sq_add_one_ne_zero _), eu, ev]
  simp only [onCurve_iff_sq_mul]

theorem decompRoot_onCurve {bs : List Byte} (h : (decompRoot bs).1 = true) : OnCurve (decompRoot bs).2.gf (yOf bs) := by
  obtain ⟨⟨hu, eu⟩, hv, ev⟩ := decompRatio_is bs
  have hsq := feSqrtRatio_snd_sq_mul hu hv (ev ▸ gfD_mul_sq_add_one_ne_zero _)
  rw [← decompRoot, h, if_pos rfl, eu, ev] at hsq
  exact (onCurve_iff_sq_mul ..).2 hsq

/-- `fe_is_zero` tests the value (41_field.md R163). -/
theorem feIsZero_iff {x : Fe} {v : GF} (h : x.Is v) : feIsZero x = true ↔ v = 0 := by
  rw [feIsZero_eq h.1, decide_eq_true_iff, ← h.2]
  exact not_iff_not.1 (Fe.gf_ne_zero_iff x).symm

/-- `x = 0` with sign bit 1, where the parameter rejects it. -/
def RejectsZero (reject : Bool) (bs : List Byte) (x : GF) : Prop := x = 0 ∧ signOf bs = true ∧ reject = true

/-- A decompressed point is the one of the encoding's `y` and sign. -/
theorem decompress_some {reject : Bool} {bs : List Byte} {e : Ext} (h : decompress reject bs = some e) :
    ∃ x, OnCurve x (yOf bs) ∧ HasSign (signOf bs) x ∧ ¬RejectsZero reject bs x ∧ e.Is ⟨x, yOf bs, 1, x * yOf bs⟩ := by
  rw [decompress_eq] at h
  split at h
  · cases h
  · next hok =>
    have hc := decompRoot_onCurve (Bool.eq_true_of_not_eq_false hok)
    have hx := feCneg_is (Fe.is_self (decompRoot_below bs)) (signOf bs)
    have hy := feFromBytes_is bs
    split at h
    · cases h
    · next hrej =>
      cases h
      refine ⟨_, ?_, hasSign_ite_neg (decompRoot_even bs) (signOf bs), fun ⟨h0, hs, hr⟩ => hrej ⟨hs, ?_, hr⟩,
        hx, hy, feOne_is, feMul_is hx hy⟩
      · split
        · exact (onCurve_neg_iff ..).2 hc
        · exact hc
      · rw [if_pos hs, neg_eq_zero] at h0
        exact (feIsZero_iff (Fe.is_self (decompRoot_below bs))).2 h0

/-- Where decompression answers none, no point of the curve has this `y`, or it is the zero that is rejected. -/
theorem decompress_none {reject : Bool} {bs : List Byte} (h : decompress reject bs = none) :
    (∀ x, ¬OnCurve x (yOf bs)) ∨ (OnCurve 0 (yOf bs) ∧ RejectsZero reject bs 0) := by
  rw [decompress_eq] at h
  split at h
  · next hok =>
    refine .inl fun x hx => ?_
    rw [(decompRoot_fst_iff bs).2 ⟨x, hx⟩] at hok
    cases hok
  · next hok =>
    split at h
    · next hrej =>
      obtain ⟨hs, h0, hr⟩ := hrej
      have hc := decompRoot_onCurve (Bool.eq_true_of_not_eq_false hok)
      rw [(feIsZero_iff (Fe.is_self (decompRoot_below bs))).1 h0] at hc
      exact .inr ⟨hc, rfl, hs, hr⟩
    · cases h

/-- The point of the encoding's `y` and sign is the one decompression answers. -/
theorem decompress_of_onCurve {reject : Bool} {bs : List Byte} {x : GF} (hc : OnCurve x (yOf bs))
    (hs : HasSign (signOf bs) x) (hr : ¬RejectsZero reject bs x) :
    ∃ e, decompress reject bs = some e ∧ e.Is ⟨x, yOf bs, 1, x * yOf bs⟩ := by
  cases h : decompress reject bs with
  | none =>
    obtain hn | ⟨h0, hr0⟩ := decompress_none h
    · exact absurd hc (hn x)
    · exact absurd (hc.eq_zero h0 ▸ hr0) hr
  | some e =>
    obtain ⟨x', hc', hs', -, he⟩ := decompress_some h
    obtain rfl := hs.eq_of_eq_or_neg hs' (hc.eq_or_neg hc')
    exact ⟨e, rfl, he⟩

theorem decompress_eq_none {reject : Bool} {bs : List Byte}
    (h : (∀ x, ¬OnCurve x (yOf bs)) ∨ (OnCurve 0 (yOf bs) ∧ RejectsZero reject bs 0)) :
    decompress reject bs = none := by
  cases hd : decompress reject bs with
  | none => rfl
  | some e =>
    obtain ⟨x, hc, -, hr, -⟩ := decompress_some hd
    obtain hn | ⟨h0, hr0⟩ := h
    · exact absurd hc (hn x)
    · exact absurd (hc.eq_zero h0 ▸ hr0) hr

theorem decompress_at {reject : Bool} {bs : List Byte} {e : Ext} (h : decompress reject bs = some e) :
    ∃ x, e.At (x, yOf bs) := by
  have := Fact.mk p_prime
  obtain ⟨x, hc, -, -, he⟩ := decompress_some h
  exact ⟨x, _, he, hc, 1, one_ne_zero, by simp only [mul_one]⟩

theorem montToEdwards_at {reject sign : Bool} {u : Fe} {e : Ext} (h : montToEdwards reject u sign = some e) :
    ∃ a, e.At a := by
  simp only [montToEdwards, strictFe_eq] at h
  split at h
  · cases h
  · obtain ⟨x, hx⟩ := decompress_at h
    exact ⟨_, hx⟩

/-! ### Bytes -/

/-- The last byte of a slot holds bits 248 to 255 of its integer. -/
theorem getD_31_toNat {bs : List Byte} (h : bs.length = 32) : (bs.getD 31 0).toNat = le bs / 2 ^ 248 := by
  have hd := le_drop 31 bs
  rw [List.drop_eq_getElem_cons (by omega), List.drop_of_length_le (by omega)] at hd
  rw [List.getD_eq_getElem _ _ (by omega)]
  exact hd

/-- The sign bit is bit 255 of the integer. -/
theorem signOf_eq_decide {bs : List Byte} (h : bs.length = 32) : signOf bs = decide (2 ^ 255 ≤ le bs) := by
  have hlt := le_lt_pow_length bs
  rw [h] at hlt
  have hd := getD_31_toNat h
  rw [signOf, BitVec.getLsbD, Nat.testBit_eq_decide_div_mod_eq, hd, decide_eq_decide]
  omega

end Sys2Proof.Machine

/-! SUPPORT. Compression (43_point.md R274): the integer of a compressed point, and its round trip. -/
namespace Sys2Proof.Machine

theorem set_31_eq {bs : List Byte} (h : bs.length = 32) (b : Byte) : bs.set 31 b = bs.take 31 ++ [b] := by
  rw [List.set_eq_take_append_cons_drop, if_pos (by omega), List.drop_of_length_le (by omega)]

/-- A slot with another last byte. -/
theorem le_set_31 {bs : List Byte} (h : bs.length = 32) (b : Byte) :
    le (bs.set 31 b) = le bs % 2 ^ 248 + b.toNat * 2 ^ 248 := by
  have hlen : (bs.take 31).length = 31 := by rw [List.length_take, h]; rfl
  rw [set_31_eq h, le_append, le_take, hlen, le, le]
  omega

/-- The sign bit in a byte whose bit 7 is clear. -/
theorem or_sign_toNat {b : Byte} (hb : b.toNat < 2 ^ 7) (sign : Bool) :
    (b ||| BitVec.ofNat 8 sign.toNat <<< 7).toNat = b.toNat + sign.toNat * 2 ^ 7 := by
  cases sign with
  | false => rw [Bool.toNat_false, BitVec.zero_shiftLeft, BitVec.or_zero, zero_mul, add_zero]
  | true =>
    have hor := Nat.shiftLeft_add_eq_or_of_lt hb 1
    rw [BitVec.toNat_or, Nat.or_comm]
    exact hor.symm.trans (Nat.add_comm ..)

theorem toNat_decide_odd (n : Nat) : (decide (n % 2 = 1)).toNat = n % 2 := by
  rcases Nat.mod_two_eq_zero_or_one n with h | h <;> rw [h] <;> rfl

/-- The compressed form is `y`, with the parity of `x` in bit 255. -/
theorem le_compress {e : Ext} {g : GExt} (h : e.Is g) :
    le (compress e) = g.aff.2.val + g.aff.1.val % 2 * 2 ^ 255 := by
  obtain ⟨⟨hx, ex⟩, hy, ey⟩ := affine_is h
  have hlen := feToBytes_length (affine e).2
  have hle := le_feToBytes hy
  have hlt := (affine e).2.fval_lt.trans p_lt
  have hlast := getD_31_toNat hlen
  have hsign : (feIsNegative (affine e).1).toNat = (affine e).1.fval % 2 := by
    rw [feIsNegative_eq hx, toNat_decide_odd]
  rw [compress, le_set_31 hlen, or_sign_toNat (by omega), hlast, hsign, hle, ← ex, ← ey, Fe.val_gf, Fe.val_gf]
  omega

theorem compress_eq_leBytes {e : Ext} {g : GExt} (h : e.Is g) :
    compress e = leBytes 32 (g.aff.2.val + g.aff.1.val % 2 * 2 ^ 255) := by
  rw [← le_compress h, ← compress_length e, leBytes_le]

theorem gf_val_lt (x : GF) : x.val < 2 ^ 255 := by
  have := Fact.mk p_prime
  exact x.val_lt.trans p_lt

theorem yOf_compress {e : Ext} {g : GExt} (h : e.Is g) : yOf (compress e) = g.aff.2 := by
  have := Fact.mk p_prime
  have hy := gf_val_lt g.aff.2
  rw [yOf, le_compress h, Nat.add_mul_mod_self_right, Nat.mod_eq_of_lt hy, ZMod.natCast_zmod_val]

theorem signOf_compress {e : Ext} {g : GExt} (h : e.Is g) : (signOf (compress e)).toNat = g.aff.1.val % 2 := by
  have hy := gf_val_lt g.aff.2
  rw [signOf_eq_decide (compress_length e), le_compress h]
  rcases Nat.mod_two_eq_zero_or_one g.aff.1.val with hx | hx <;> rw [hx]
  · rw [decide_eq_false (by omega)]
    rfl
  · rw [decide_eq_true (by omega)]
    rfl

/-- Compressed forms are equal exactly when `y` and the parity of `x` are (R288). -/
theorem pointEq_iff {e f : Ext} {g k : GExt} (he : e.Is g) (hf : f.Is k) :
    pointEq e f = true ↔ g.aff.2 = k.aff.2 ∧ g.aff.1.val % 2 = k.aff.1.val % 2 := by
  rw [pointEq, bytesEq_iff (by simp)]
  constructor
  · intro h
    exact ⟨by rw [← yOf_compress he, h, yOf_compress hf], by rw [← signOf_compress he, h, signOf_compress hf]⟩
  · rintro ⟨hy, hx⟩
    rw [compress_eq_leBytes he, compress_eq_leBytes hf, hy, hx]

/-- Points of the curve with one `y` and one parity of `x` are equal. -/
theorem aff_eq_of_parity {a b : GF × GF} (ha : OnCurve a.1 a.2) (hb : OnCurve b.1 b.2) (hy : a.2 = b.2)
    (hx : a.1.val % 2 = b.1.val % 2) : a = b := by
  have hsa : HasSign (decide (a.1.val % 2 = 1)) a.1 := .inr (toNat_decide_odd _).symm
  have hsb : HasSign (decide (a.1.val % 2 = 1)) b.1 := .inr (hx ▸ (toNat_decide_odd _).symm)
  exact Prod.ext (hsa.eq_of_eq_or_neg hsb (ha.eq_or_neg (hy ▸ hb))) hy

/-- Settles O42: the compressed form has the point's `y` and sign, and is not the zero with sign bit 1. -/
theorem compressionRoundTrip : Obligations.CompressionRoundTrip := by
  unfold Obligations.CompressionRoundTrip
  intro e reject hb hv
  have := Fact.mk p_prime
  obtain ⟨hc, -⟩ := hv.stands
  have he := Ext.is_gf hb
  have hy := yOf_compress he
  have hs := signOf_compress he
  rw [← hy] at hc
  have hrej : ¬RejectsZero reject (compress e) e.gf.aff.1 := fun ⟨h0, h1, _⟩ => by
    rw [h0, h1, ZMod.val_zero] at hs
    cases hs
  obtain ⟨f, hf, hIs⟩ := decompress_of_onCurve hc (.inr hs.symm) hrej
  obtain ⟨hbf, hgf⟩ := (f.is_iff _).1 hIs
  have hst : f.gf.Stands (e.gf.aff.1, yOf (compress e)) := by
    rw [hgf]
    exact ⟨hc, 1, one_ne_zero, by simp only [mul_one]⟩
  exact ⟨f, hf, hbf, hst.valid, by rw [hgf], by rw [hst.aff_eq, hy]⟩

end Sys2Proof.Machine

/-! SUPPORT. Every write of a command, and every step, keeps every point register and every pair on the curve
(43_point.md R265). -/
namespace Sys2Proof.Machine

/-! ### The point engine on sound contents -/

/-- A curve point from natural numbers. -/
theorem onCurve_natCast (x y : Nat) (h : y ^ 2 % p = (1 + feEdwardsD.fval * x ^ 2 * y ^ 2 + x ^ 2) % p) :
    OnCurve (x : GF) (y : GF) := by
  have hgf := (gf_natCast_eq_iff ..).2 h
  have hd : (feEdwardsD.fval : GF) = gfD := rfl
  push_cast [hd] at hgf
  rw [OnCurve]
  linear_combination hgf

theorem extBase_at : extBase.At (extBase.X.gf, extBase.Y.gf) := by
  have := Fact.mk p_prime
  have hc : OnCurve extBase.X.gf extBase.Y.gf :=
    onCurve_natCast extBase.X.fval extBase.Y.fval (by decide +kernel)
  have hT : extBase.T.gf = extBase.X.gf * extBase.Y.gf := by
    have h := (gf_natCast_eq_iff extBase.T.fval (extBase.X.fval * extBase.Y.fval)).2 (by decide +kernel)
    rwa [Nat.cast_mul] at h
  exact (Ext.at_iff ..).2 ⟨by decide, hc, 1, one_ne_zero,
    GExt.ext (mul_one _).symm (mul_one _).symm feOne_is.2 (hT.trans (mul_one _).symm)⟩

theorem negate_sound {q : Point} (h : q.Sound) : Answers Point.Sound q.negate := by
  cases q with
  | ext e => exact (answers_ok_iff _).2 (h.elim fun _ h => (negExt_at h).sound)
  | proj e => exact answers_error _
  | compl e => exact answers_error _
  | pniels n => exact (answers_ok_iff _).2 (h.elim fun _ h => (negPN_at h).sound)
  | aniels n => exact (answers_ok_iff _).2 (h.elim fun _ h => (negAN_at h).sound)

/-- A selection answers one of its two contents (R285). -/
theorem select_ok {q r t : Point} {c : Bool} (h : q.select r c = .ok t) : t = if c then r else q := by
  rw [select_eq] at h
  split at h
  · exact (Except.ok.inj h).symm
  · cases h

theorem select_sound {q r : Point} (hq : q.Sound) (hr : r.Sound) (c : Bool) : Answers Point.Sound (q.select r c) := by
  intro t ht
  rw [select_ok ht]
  split
  · exact hr
  · exact hq

theorem condNegate_sound {q : Point} (h : q.Sound) (c : Bool) : Answers Point.Sound (q.condNegate c) := by
  have hn := negate_sound h
  unfold Point.condNegate
  split
  · next n hq => exact select_sound h (hn n hq) c
  · exact answers_error _

theorem addTo_sound {q : Point} (hq : q.Sound) {e : Ext} (he : (Point.ext e).Sound) :
    Answers (fun t => (Point.compl t).Sound) (q.addTo e) := by
  obtain ⟨_, he⟩ := he
  cases q with
  | pniels n => exact (answers_ok_iff _).2 (hq.elim fun _ hn => (addPN_at he hn).sound)
  | aniels n => exact (answers_ok_iff _).2 (hq.elim fun _ hn => (addAN_at he hn).sound)
  | ext => exact answers_error _
  | proj => exact answers_error _
  | compl => exact answers_error _

theorem subFrom_sound {q : Point} (hq : q.Sound) {e : Ext} (he : (Point.ext e).Sound) :
    Answers (fun t => (Point.compl t).Sound) (q.subFrom e) := by
  obtain ⟨_, he⟩ := he
  cases q with
  | pniels n => exact (answers_ok_iff _).2 (hq.elim fun _ hn => (subPN_at he hn).sound)
  | aniels n => exact (answers_ok_iff _).2 (hq.elim fun _ hn => (subAN_at he hn).sound)
  | ext => exact answers_error _
  | proj => exact answers_error _
  | compl => exact answers_error _

/-! ### Writes -/

/-- What a write must be to keep the points of a state sound. -/
def Write.Sound : Write → Prop
  | .p _ q => ∀ r, q = some r → r.Sound
  | .msm l => ∀ m ∈ l, (Point.ext m.point).Sound
  | _ => True

/-- The points of a state are sound. -/
def State.PointsSound (s : State) : Prop :=
  (∀ q, some q ∈ s.P → Point.Sound q) ∧ ∀ m ∈ s.msm, (Point.ext m.point).Sound

theorem Point.Below.mono {m n : Nat} {q : Point} (h : q.Below m) (hmn : m ≤ n) : q.Below n := by
  cases q with
  | ext e => exact ⟨h.1.mono hmn, h.2.1.mono hmn, h.2.2.1.mono hmn, h.2.2.2.mono hmn⟩
  | proj e => exact ⟨h.1.mono hmn, h.2.1.mono hmn, h.2.2.mono hmn⟩
  | compl e => exact ⟨h.1.mono hmn, h.2.1.mono hmn, h.2.2.1.mono hmn, h.2.2.2.mono hmn⟩
  | pniels e => exact ⟨h.1.mono hmn, h.2.1.mono hmn, h.2.2.1.mono hmn, h.2.2.2.mono hmn⟩
  | aniels e => exact ⟨h.1.mono hmn, h.2.1.mono hmn, h.2.2.mono hmn⟩

theorem Point.sound_iff_valid {q : Point} (h : q.Below 53) : q.Sound ↔ q.Valid := by
  rw [sound_iff, and_iff_right (h.mono (by decide))]

/-- Under the invariant the limbs are loose, so the points are sound exactly when they are valid. -/
theorem State.Inv.pointsSound_iff {s : State} (h : s.Inv) : s.PointsSound ↔ s.PointsValid := by
  obtain ⟨-, hP, hM⟩ := h.limbs
  exact and_congr (forall₂_congr fun q hq => Point.sound_iff_valid (hP q hq))
    (forall₂_congr fun m hm => Point.sound_iff_valid (q := .ext m.point) (hM m hm))

theorem State.PointsSound.apply {s : State} (h : s.PointsSound) {w : Write} (hw : w.Sound) :
    (s.apply w).PointsSound := by
  cases w with
  | p n q => exact ⟨forall_some_mem_set h.1 hw, h.2⟩
  | msm l => exact ⟨h.1, hw⟩
  | f => exact h
  | s => exact h
  | c => exact h
  | dg => exact h
  | slots => exact h

theorem State.PointsSound.applyAll {s : State} (h : s.PointsSound) {ws : List Write} (hw : ∀ w ∈ ws, w.Sound) :
    (s.applyAll ws).PointsSound := by
  induction ws generalizing s with
  | nil => exact h
  | cons w ws ih =>
    obtain ⟨h0, hws⟩ := List.forall_mem_cons.1 hw
    exact ih (h.apply h0) hws

theorem State.PointsSound.readP {s : State} (h : s.PointsSound) {r : RegNo} {q : Point} (hq : s.readP r = some q) :
    q.Sound := h.1 q (mem_of_getD_eq_some hq)

theorem sound_point {d : RegNo} {q : Point} (h : q.Sound) : ∀ w ∈ [Write.p d (some q)], w.Sound :=
  List.forall_mem_singleton.2 fun _ e => Option.some.inj e ▸ h

section
variable {s : State} (h : s.PointsSound)
include h

theorem sound_withExt {d a : RegNo} {f : Ext → Point} (hf : ∀ e b, e.At b → (f e).Sound) :
    Answers (fun ws => ∀ w ∈ ws, w.Sound) (withExt s a fun e => [.p d (some (f e))]) :=
  (answers_withExt_iff ..).2 fun e he => (h.readP he).elim fun b hb => sound_point (hf e b hb)

/-- Every write of a command is sound, from a state whose points are. -/
theorem writes_sound (i : Instr) : Answers (fun ws => ∀ w ∈ ws, w.Sound) (writes i s) := by
  cases i with
  | ptIdent => exact (answers_ok_iff _).2 (sound_point extIdentity_at.sound)
  | ptBase => exact (answers_ok_iff _).2 (sound_point extBase_at.sound)
  | ptMov =>
    simp only [writes, State.srcP, answers_bind_iff, answers_source_iff, answers_pure_iff]
    exact fun q hq => sound_point (h.readP hq)
  | ptDecomp =>
    refine (answers_ok_iff _).2 (List.forall_mem_cons.2 ⟨trivial, List.forall_mem_singleton.2 fun q hq => ?_⟩)
    obtain ⟨e, he, rfl⟩ := Option.map_eq_some_iff.1 hq
    exact (decompress_at he).elim fun _ he => he.sound
  | ptE2p => exact sound_withExt h fun _ _ he => (e2p_at he).sound
  | ptE2pn => exact sound_withExt h fun _ _ he => (e2pn_at he).sound
  | ptE2an => exact sound_withExt h fun _ _ he => (e2an_at he).sound
  | ptMulcof => exact sound_withExt h fun _ _ he => (mulcof_at he).sound
  | ptEdbl => exact sound_withExt h fun _ _ he => (edbl_at he).sound
  | ptP2e => exact (answers_withProj_iff ..).2 fun e he => (h.readP he).elim fun _ he => sound_point (p2e_at he).sound
  | ptDbl => exact (answers_withProj_iff ..).2 fun e he => (h.readP he).elim fun _ he => sound_point (dbl_at he).sound
  | ptC2p => exact (answers_withCompl_iff ..).2 fun e he => (h.readP he).elim fun _ he => sound_point (c2p_at he).sound
  | ptC2e => exact (answers_withCompl_iff ..).2 fun e he => (h.readP he).elim fun _ he => sound_point (c2e_at he).sound
  | ptAdd =>
    simp only [writes, State.srcP, answers_bind_iff, answers_source_iff, answers_asExt_iff, answers_pure_iff]
    exact fun q hq r hr e he t ht => sound_point (addTo_sound (h.readP hr) (he ▸ h.readP hq) t ht)
  | ptSub =>
    simp only [writes, State.srcP, answers_bind_iff, answers_source_iff, answers_asExt_iff, answers_pure_iff]
    exact fun q hq r hr e he t ht => sound_point (subFrom_sound (h.readP hr) (he ▸ h.readP hq) t ht)
  | ptNeg =>
    simp only [writes, State.srcP, answers_bind_iff, answers_source_iff, answers_pure_iff]
    exact fun q hq t ht => sound_point (negate_sound (h.readP hq) t ht)
  | ptCsel =>
    simp only [writes, State.srcP, State.srcC, answers_bind_iff, answers_source_iff, answers_pure_iff]
    exact fun q hq r hr k _ t ht => sound_point (select_sound (h.readP hq) (h.readP hr) k t ht)
  | ptCneg =>
    simp only [writes, State.srcP, State.srcC, answers_bind_iff, answers_source_iff, answers_pure_iff]
    exact fun k _ q hq t ht => sound_point (condNegate_sound (h.readP hq) k t ht)
  | ptCassign =>
    simp only [writes, State.srcP, State.srcC, answers_bind_iff, answers_source_iff, answers_pure_iff]
    exact fun r hr k _ q hq t ht => sound_point (select_sound (h.readP hq) (h.readP hr) k t ht)
  | ptEadd =>
    refine (answers_withExtExt_iff ..).2 fun e he f hf => ?_
    obtain ⟨_, he⟩ := h.readP he
    obtain ⟨_, hf⟩ := h.readP hf
    exact sound_point (eadd_at he hf).sound
  | ptEsub =>
    refine (answers_withExtExt_iff ..).2 fun e he f hf => ?_
    obtain ⟨_, he⟩ := h.readP he
    obtain ⟨_, hf⟩ := h.readP hf
    exact sound_point (esub_at he hf).sound
  | ptSmul =>
    simp only [writes, State.srcP, State.srcS, answers_bind_iff, answers_source_iff, answers_asExt_iff,
      answers_pure_iff]
    exact fun q hq n _ e he => sound_point (smul_sound (he ▸ h.readP hq) n.toNat)
  | ptDsmb =>
    simp only [writes, State.srcP, State.srcS, answers_bind_iff, answers_source_iff, answers_asExt_iff,
      answers_pure_iff]
    exact fun m _ q hq n _ e he => sound_point (dsmb_sound m.toNat (he ▸ h.readP hq) n.toNat)
  | msmClr => exact (answers_ok_iff _).2 (List.forall_mem_singleton.2 (List.forall_mem_nil _))
  | msmPush =>
    simp only [writes, State.srcP, State.srcS, answers_bind_iff, answers_source_iff, answers_asExt_iff,
      answers_ite_iff, answers_error, answers_pure_iff, implies_true, true_and]
    intro n _ q hq e he _
    refine List.forall_mem_singleton.2 fun m hm => ?_
    rcases List.mem_append.1 hm with hm | hm
    · exact h.2 m hm
    · obtain rfl := List.mem_singleton.1 hm
      exact he ▸ h.readP hq
  | msmRun =>
    simp only [writes, answers_ite_iff, answers_error, answers_ok_iff, implies_true, true_and]
    exact fun _ => List.forall_mem_cons.2 ⟨fun _ e => Option.some.inj e ▸ msmSum_sound h.2,
      List.forall_mem_singleton.2 (List.forall_mem_nil _)⟩
  | mtoe =>
    simp only [writes, State.srcF, answers_bind_iff, answers_source_iff, answers_pure_iff]
    intro u _ e he
    unfold mtoePoint at he
    split at he
    · next e' he' =>
      cases he
      exact (montToEdwards_at he').elim fun _ he => sound_point he.sound
    · cases he
  -- the other commands write to no point register and not to the pair list
  | _ => simp [writes, Write.Sound]

end

/-! ### Steps -/

theorem exec_keepsSound {i : Instr} {s t : State} (h : s.PointsSound) (ht : exec i s = .next t) : t.PointsSound := by
  obtain ⟨k, rfl⟩ | ⟨ws, -, hws, rfl⟩ := exec_cases ht
  · exact h
  · exact h.applyAll (writes_sound h i ws hws)

theorem acceptWord_keepsSound {w : Word} {s t : State} (h : s.PointsSound) (ht : acceptWord w s = .next t) :
    t.PointsSound := by
  obtain ⟨-, ha⟩ | ⟨-, k, -, ha⟩ | ⟨-, i, -, ha⟩ := acceptWord_cases w s
  · exact Host.Outcome.next.inj (ha.symm.trans ht) ▸ h
  · exact Host.Outcome.next.inj (ha.symm.trans ht) ▸ h
  · exact exec_keepsSound h (ha.symm.trans ht)

theorem resetOf_pointsSound (prm : Params) : (State.resetOf prm).PointsSound :=
  ⟨fun _ hq => (not_some_mem_replicate hq).elim, List.forall_mem_nil _⟩

theorem hostWrite_keepsSound {s : State} (h : s.PointsSound) (o : Nat) (w : Word) : (hostWrite s o w).PointsSound := by
  unfold hostWrite
  split
  · split
    · exact resetOf_pointsSound s.params
    · exact h
  · split
    · exact h
    · exact h

theorem driveReset_keepsSound {s : State} (h : s.PointsSound) (a : Bool) : (driveReset s a).PointsSound := by
  cases a with
  | true => exact resetOf_pointsSound s.params
  | false => exact h

theorem step_keepsSound {s t : State} (h : s.PointsSound) (ht : step s = .next t) : t.PointsSound := by
  obtain ⟨-, rfl⟩ | ⟨e, es, -, he⟩ := step_cases ht
  · exact h
  · have h' : ({ s with bus := es } : State).PointsSound := h
    obtain ⟨o, rfl, -, -, -, rfl⟩ | ⟨w, rfl, -, ha⟩ | ⟨o, w, rfl, -, -, -, -, rfl⟩ | ⟨a, rfl, rfl⟩ :=
      busEvent_cases he
    · exact h'
    · exact acceptWord_keepsSound h' ha
    · exact hostWrite_keepsSound h' o w
    · exact driveReset_keepsSound h' a

/-- Settles O52: under the invariant, whose limbs are loose, valid points are sound ones, and every step keeps these. -/
theorem stepKeepsPointsValid : Obligations.StepKeepsPointsValid := by
  unfold Obligations.StepKeepsPointsValid
  intro s t hs hv ht
  exact (step_keepsInv hs ht).pointsSound_iff.1 (step_keepsSound (hs.pointsSound_iff.2 hv) ht)

end Sys2Proof.Machine

/-! SUPPORT. The point commands (43_point.md R273 to R294): that a well-formed command with its sources held makes its
writes, with the components and the points of the lemmas above. -/
namespace Sys2Proof.Machine

/-! ### Point commands that complete (40_system_choice.md R130) -/

section
variable {s : State} {a b c d : RegNo} {i : Instr} {q r t : Point} {k : Bool}

theorem bind_of_ok {ε α β : Type} {x : Except ε α} {v : α} (h : x = .ok v) (f : α → Except ε β) : x >>= f = f v := by
  rw [h]
  rfl

theorem asExt_ext (e : Ext) : (Point.ext e).asExt = .ok e := rfl

theorem srcP_of_readP (hq : s.readP a = some q) : s.srcP a = .ok q := (source_ok_iff ..).2 hq

theorem exec_of_withExt {e : Ext} {f : Ext → List Write} (hwf : i.WellFormed s.params) (hi : writes i s = withExt s a f)
    (he : s.readP a = some (.ext e)) : exec i s = .next (s.applyAll (f e)).retire := by
  refine exec_of_writes hwf (hi.trans ?_)
  rw [withExt, srcP_of_readP he]
  rfl

theorem exec_of_withExtExt {e e' : Ext} {f : Ext → Ext → List Write} (hwf : i.WellFormed s.params)
    (hi : writes i s = withExtExt s a b f) (he : s.readP a = some (.ext e)) (he' : s.readP b = some (.ext e')) :
    exec i s = .next (s.applyAll (f e e')).retire := by
  refine exec_of_writes hwf (hi.trans ?_)
  rw [withExtExt, srcP_of_readP he, srcP_of_readP he']
  rfl

theorem exec_of_withProj {e : Proj} {f : Proj → List Write} (hwf : i.WellFormed s.params)
    (hi : writes i s = withProj s a f) (he : s.readP a = some (.proj e)) :
    exec i s = .next (s.applyAll (f e)).retire := by
  refine exec_of_writes hwf (hi.trans ?_)
  rw [withProj, srcP_of_readP he]
  rfl

theorem exec_of_withCompl {e : Compl} {f : Compl → List Write} (hwf : i.WellFormed s.params)
    (hi : writes i s = withCompl s a f) (he : s.readP a = some (.compl e)) :
    exec i s = .next (s.applyAll (f e)).retire := by
  refine exec_of_writes hwf (hi.trans ?_)
  rw [withCompl, srcP_of_readP he]
  rfl

theorem exec_ptAdd {e : Ext} {t : Compl} (hwf : (Instr.ptAdd d a b).WellFormed s.params)
    (he : s.readP a = some (.ext e)) (hr : s.readP b = some r) (ht : r.addTo e = .ok t) :
    exec (.ptAdd d a b) s = .next (s.writeP d (.compl t)).retire := by
  refine exec_of_writes (ws := [.p d (some (.compl t))]) hwf ?_
  rw [writes, bind_of_ok (srcP_of_readP he), bind_of_ok (srcP_of_readP hr), bind_of_ok (asExt_ext e), bind_of_ok ht]
  rfl

theorem exec_ptSub {e : Ext} {t : Compl} (hwf : (Instr.ptSub d a b).WellFormed s.params)
    (he : s.readP a = some (.ext e)) (hr : s.readP b = some r) (ht : r.subFrom e = .ok t) :
    exec (.ptSub d a b) s = .next (s.writeP d (.compl t)).retire := by
  refine exec_of_writes (ws := [.p d (some (.compl t))]) hwf ?_
  rw [writes, bind_of_ok (srcP_of_readP he), bind_of_ok (srcP_of_readP hr), bind_of_ok (asExt_ext e), bind_of_ok ht]
  rfl

theorem exec_ptNeg (hwf : (Instr.ptNeg d a).WellFormed s.params) (hq : s.readP a = some q) (ht : q.negate = .ok t) :
    exec (.ptNeg d a) s = .next (s.writeP d t).retire := by
  refine exec_of_writes (ws := [.p d (some t)]) hwf ?_
  rw [writes, bind_of_ok (srcP_of_readP hq), bind_of_ok ht]
  rfl

theorem exec_ptCneg (hwf : (Instr.ptCneg d c).WellFormed s.params) (hk : s.readC c = some k) (hq : s.readP d = some q)
    (ht : q.condNegate k = .ok t) : exec (.ptCneg d c) s = .next (s.writeP d t).retire := by
  refine exec_of_writes (ws := [.p d (some t)]) hwf ?_
  rw [writes, bind_of_ok (srcC_of_readC hk), bind_of_ok (srcP_of_readP hq), bind_of_ok ht]
  rfl

theorem exec_ptCsel (hwf : (Instr.ptCsel d a b c).WellFormed s.params) (hk : s.readC c = some k)
    (hq : s.readP a = some q) (hr : s.readP b = some r) (ht : q.select r k = .ok t) :
    exec (.ptCsel d a b c) s = .next (s.writeP d t).retire := by
  refine exec_of_writes (ws := [.p d (some t)]) hwf ?_
  rw [writes, bind_of_ok (srcP_of_readP hq), bind_of_ok (srcP_of_readP hr), bind_of_ok (srcC_of_readC hk),
    bind_of_ok ht]
  rfl

theorem exec_ptCassign (hwf : (Instr.ptCassign d a c).WellFormed s.params) (hk : s.readC c = some k)
    (hr : s.readP a = some r) (hq : s.readP d = some q) (ht : q.select r k = .ok t) :
    exec (.ptCassign d a c) s = .next (s.writeP d t).retire := by
  refine exec_of_writes (ws := [.p d (some t)]) hwf ?_
  rw [writes, bind_of_ok (srcP_of_readP hr), bind_of_ok (srcC_of_readC hk), bind_of_ok (srcP_of_readP hq),
    bind_of_ok ht]
  rfl

theorem exec_ptDecomp {imm : Imm} {o : Option Ext} (hwf : (Instr.ptDecomp d a imm).WellFormed s.params)
    (ho : decompress s.params.rejectNegZero (s.readSlots imm 1) = o) :
    exec (.ptDecomp d a imm) s = .next ((s.writeC a o.isSome).setP d (o.map .ext)).retire := by
  subst ho
  exact exec_of_writes hwf rfl

end

/-- A selection between two contents of one tag among those it accepts (R285, R287). -/
theorem select_of_tag {q r : Point} (hqr : q.tag = r.tag) (hq : q.tag = .ext ∨ q.tag = .pniels ∨ q.tag = .aniels)
    (k : Bool) : q.select r k = .ok (if k then r else q) := by
  rw [select_eq, if_pos ⟨hqr, by simpa using hq⟩]

/-- A conditional negation selects between a content and its negation (R286). -/
theorem condNegate_of_negate {q t : Point} (hq : q.negate = .ok t) (k : Bool) :
    q.condNegate k = .ok (if k then t else q) := by
  have htag : q.tag = t.tag ∧ (q.tag = .ext ∨ q.tag = .pniels ∨ q.tag = .aniels) := by
    cases q <;> cases hq <;> exact ⟨rfl, by simp [Point.tag]⟩
  rw [Point.condNegate, hq]
  exact select_of_tag htag.1 htag.2 k

/-! ### The statements -/

/-- Settles O33: the two outcomes of decompression, on the slot's `y` and sign bit. -/
theorem pointDecompression : Obligations.PointDecompression := by
  unfold Obligations.PointDecompression
  intro s d a imm bytes sign y hwf hbytes hsign hy
  have hread : s.readSlots imm 1 = bytes := hbytes.symm
  have hlen : bytes.length = 32 := by rw [hbytes, memRead_length]
  obtain rfl : sign = signOf bytes := hsign.trans (signOf_eq_decide hlen).symm
  obtain rfl : y = yOf bytes := hy
  refine ⟨fun x hc hs hr => ?_, fun h => ?_⟩
  · obtain ⟨e, he, hIs⟩ := decompress_of_onCurve hc hs hr
    obtain ⟨hb, hg⟩ := (Ext.is_iff ..).1 hIs
    exact ⟨e, hb, hg, exec_ptDecomp (o := some e) hwf (hread ▸ he)⟩
  · have hn : decompress s.params.rejectNegZero bytes = none :=
      decompress_eq_none (h.imp_right fun ⟨h0, hs, hr⟩ => ⟨h0, rfl, hs, hr⟩)
    exact exec_ptDecomp (o := none) hwf (hread ▸ hn)

/-- Settles O34. -/
theorem pointCompression : Obligations.PointCompression := by
  unfold Obligations.PointCompression
  intro s a imm e n hwf he hb hn
  have hIs := Ext.is_gf hb
  have hlt : n < 256 ^ 32 := by
    rw [hn, ← le_compress hIs]
    exact compress_length e ▸ le_lt_pow_length (compress e)
  rw [hn, ← compress_eq_leBytes hIs, ← hn]
  refine ⟨exec_of_withExt hwf rfl he, fun hm => ?_⟩
  rw [memRead_writeSlots hm imm (compress_length e), le_compress hIs, hn]

/-- Settles O35: each conversion is that of its formula on loose limbs. -/
theorem pointConversions : Obligations.PointConversions := by
  unfold Obligations.PointConversions
  intro s d a hd ha
  have hregs : decide (d.toNat < s.params.np ∧ a.toNat < s.params.np) = true := decide_eq_true ⟨hd, ha⟩
  refine ⟨fun e he hb => ?_, fun e he hb => ?_, fun e he hb => ?_⟩
  · have h := Ext.is_gf hb
    obtain ⟨hp, ep⟩ := (Proj.is_iff ..).1 (e2p_is h)
    obtain ⟨hn, en⟩ := (PNiels.is_iff ..).1 (e2pn_is h)
    obtain ⟨ha, ea⟩ := (ANiels.is_iff ..).1 (e2an_is h)
    exact ⟨⟨_, hp, ep, exec_of_withExt (i := .ptE2p d a) hregs rfl he⟩,
      ⟨_, hn, en, exec_of_withExt (i := .ptE2pn d a) hregs rfl he⟩,
      ⟨_, ha, ea, exec_of_withExt (i := .ptE2an d a) hregs rfl he⟩⟩
  · obtain ⟨hq, eq⟩ := (Ext.is_iff ..).1 (p2e_is (Proj.is_gf hb))
    exact ⟨_, hq, eq, exec_of_withProj (i := .ptP2e d a) hregs rfl he⟩
  · have h := Compl.is_gf hb
    obtain ⟨hp, ep⟩ := (Proj.is_iff ..).1 (c2p_is h)
    obtain ⟨hq, eq⟩ := (Ext.is_iff ..).1 (c2e_is h)
    exact ⟨⟨_, hp, ep, exec_of_withCompl (i := .ptC2p d a) hregs rfl he⟩,
      ⟨_, hq, eq, exec_of_withCompl (i := .ptC2e d a) hregs rfl he⟩⟩

/-- Settles O36: an addition and a subtraction for each Niels form. -/
theorem stagedArithmetic : Obligations.StagedArithmetic := by
  unfold Obligations.StagedArithmetic
  intro s d a b hd ha hb
  have h2 : decide (d.toNat < s.params.np ∧ a.toNat < s.params.np) = true := decide_eq_true ⟨hd, ha⟩
  have h3 : decide (d.toNat < s.params.np ∧ a.toNat < s.params.np ∧ b.toNat < s.params.np) = true :=
    decide_eq_true ⟨hd, ha, hb⟩
  refine ⟨fun e he hbe => ?_, fun e n he hn hbe hbn => ?_, fun e n he hn hbe hbn => ?_⟩
  · obtain ⟨hq, eq⟩ := (Compl.is_iff ..).1 (dbl_is (Proj.is_gf hbe))
    exact ⟨_, hq, eq, exec_of_withProj (i := .ptDbl d a) h2 rfl he⟩
  · obtain ⟨hp, ep⟩ := (Compl.is_iff ..).1 (addPN_is (Ext.is_gf hbe) (PNiels.is_gf hbn))
    obtain ⟨hm, em⟩ := (Compl.is_iff ..).1 (subPN_is (Ext.is_gf hbe) (PNiels.is_gf hbn))
    exact ⟨⟨_, hp, ep, exec_ptAdd h3 he hn rfl⟩, ⟨_, hm, em, exec_ptSub h3 he hn rfl⟩⟩
  · obtain ⟨hp, ep⟩ := (Compl.is_iff ..).1 (addAN_is (Ext.is_gf hbe) (ANiels.is_gf hbn))
    obtain ⟨hm, em⟩ := (Compl.is_iff ..).1 (subAN_is (Ext.is_gf hbe) (ANiels.is_gf hbn))
    exact ⟨⟨_, hp, ep, exec_ptAdd h3 he hn rfl⟩, ⟨_, hm, em, exec_ptSub h3 he hn rfl⟩⟩

/-- Settles O37: negation answers for each of the three tags, and selection between contents of one of them. -/
theorem pointNegSelect : Obligations.PointNegSelect := by
  unfold Obligations.PointNegSelect
  refine ⟨fun s d a hwf => ⟨fun e he hb => ?_, fun n hn hb => ?_, fun n hn hb => ?_⟩,
    fun s d c k hwf hk => ⟨fun e he hb => ?_, fun n hn hb => ?_, fun n hn hb => ?_⟩,
    fun s d a b c k q r hwf hk hq hr hqr htag => ?_, fun s d a c k q r hwf hk hq hr hqr htag => ?_⟩
  · obtain ⟨hq, eq⟩ := (Ext.is_iff ..).1 (negExt_is (Ext.is_gf hb))
    exact ⟨_, hq, eq, exec_ptNeg hwf he rfl⟩
  · obtain ⟨hq, eq⟩ := (PNiels.is_iff ..).1 (negPN_is (PNiels.is_gf hb))
    exact ⟨_, hq, eq, exec_ptNeg hwf hn rfl⟩
  · obtain ⟨hq, eq⟩ := (ANiels.is_iff ..).1 (negAN_is (ANiels.is_gf hb))
    exact ⟨_, hq, eq, exec_ptNeg hwf hn rfl⟩
  · obtain ⟨hq, eq⟩ := (Ext.is_iff ..).1 (negExt_is (Ext.is_gf hb))
    exact ⟨_, hq, eq, apply_ite Point.ext (k = true) _ _ ▸ exec_ptCneg hwf hk he (condNegate_of_negate rfl k)⟩
  · obtain ⟨hq, eq⟩ := (PNiels.is_iff ..).1 (negPN_is (PNiels.is_gf hb))
    exact ⟨_, hq, eq, apply_ite Point.pniels (k = true) _ _ ▸ exec_ptCneg hwf hk hn (condNegate_of_negate rfl k)⟩
  · obtain ⟨hq, eq⟩ := (ANiels.is_iff ..).1 (negAN_is (ANiels.is_gf hb))
    exact ⟨_, hq, eq, apply_ite Point.aniels (k = true) _ _ ▸ exec_ptCneg hwf hk hn (condNegate_of_negate rfl k)⟩
  · rw [exec_ptCsel hwf hk hq hr (select_of_tag hqr htag k)]
    cases k <;> rfl
  · exact exec_ptCassign hwf hk hq hr (select_of_tag hqr.symm (hqr ▸ htag) k)

/-- Settles O39. -/
theorem pointComposites : Obligations.PointComposites := by
  unfold Obligations.PointComposites
  intro s d a b e f hd ha hb he hf hbe hbf
  have h2 : decide (d.toNat < s.params.np ∧ a.toNat < s.params.np) = true := decide_eq_true ⟨hd, ha⟩
  have h3 : decide (d.toNat < s.params.np ∧ a.toNat < s.params.np ∧ b.toNat < s.params.np) = true :=
    decide_eq_true ⟨hd, ha, hb⟩
  have ie := Ext.is_gf hbe
  have jf := Ext.is_gf hbf
  obtain ⟨h8, e8⟩ := (Ext.is_iff ..).1 (mulcof_is ie)
  obtain ⟨hp, ep⟩ := (Ext.is_iff ..).1 (eadd_is ie jf)
  obtain ⟨hm, em⟩ := (Ext.is_iff ..).1 (esub_is ie jf)
  obtain ⟨hq, eq⟩ := (Ext.is_iff ..).1 (edbl_is ie)
  exact ⟨⟨_, h8, e8, exec_of_withExt (i := .ptMulcof d a) h2 rfl he⟩,
    ⟨_, hp, ep, exec_of_withExtExt (i := .ptEadd d a b) h3 rfl he hf⟩,
    ⟨_, hm, em, exec_of_withExtExt (i := .ptEsub d a b) h3 rfl he hf⟩,
    ⟨_, hq, eq, exec_of_withExt (i := .ptEdbl d a) h2 rfl he⟩⟩

/-- Settles O40: the formulas stand for the sums of the law of 43_point.md R260, whose denominators never vanish. -/
theorem groupLaw : Obligations.GroupLaw := by
  unfold Obligations.GroupLaw
  intro s d a b e f hd ha hb he hf hbe hbf hve hvf
  have h2 : decide (d.toNat < s.params.np ∧ a.toNat < s.params.np) = true := decide_eq_true ⟨hd, ha⟩
  have h3 : decide (d.toNat < s.params.np ∧ a.toNat < s.params.np ∧ b.toNat < s.params.np) = true :=
    decide_eq_true ⟨hd, ha, hb⟩
  have ie := Ext.at_aff hbe hve
  have jf := Ext.at_aff hbf hvf
  obtain ⟨-, hp⟩ := (Ext.at_iff ..).1 (eadd_at ie jf)
  obtain ⟨-, hm⟩ := (Ext.at_iff ..).1 (esub_at ie jf)
  obtain ⟨-, hq⟩ := (Ext.at_iff ..).1 (edbl_at ie)
  exact ⟨⟨_, exec_of_withExtExt (i := .ptEadd d a b) h3 rfl he hf, hp.valid, hp.aff_eq⟩,
    ⟨_, exec_of_withExtExt (i := .ptEsub d a b) h3 rfl he hf, hm.valid, hm.aff_eq⟩,
    ⟨_, exec_of_withExt (i := .ptEdbl d a) h2 rfl he, hq.valid, hq.aff_eq⟩⟩

/-- `X = 0` and `Y = Z` (R290). -/
theorem isIdent_iff {e : Ext} {g : GExt} (h : e.Is g) : isIdent e = true ↔ g.X = 0 ∧ g.Y = g.Z := by
  obtain ⟨hX, hY, hZ, -⟩ := h
  rw [isIdent, Bool.and_eq_true, feIsZero_iff hX, feCtEq_iff hY hZ]

/-- Settles O38: points of the curve with one compressed form are equal, since `y` determines `x` up to its sign. -/
theorem pointTests : Obligations.PointTests := by
  unfold Obligations.PointTests
  intro s d a b e f hd ha hb he hf hbe hbf
  have h2 : decide (d.toNat < s.params.nc ∧ a.toNat < s.params.np) = true := decide_eq_true ⟨hd, ha⟩
  have h3 : decide (d.toNat < s.params.nc ∧ a.toNat < s.params.np ∧ b.toNat < s.params.np) = true :=
    decide_eq_true ⟨hd, ha, hb⟩
  have ie := Ext.is_gf hbe
  have hEq := pointEq_iff ie (Ext.is_gf hbf)
  refine ⟨⟨pointEq e f, exec_of_withExtExt (i := .ptEq d a b) h3 rfl he hf, hEq, fun hve hvf => ?_⟩,
    ⟨isIdent e, exec_of_withExt (i := .ptIsident d a) h2 rfl he, isIdent_iff ie⟩,
    ⟨isSmall e, exec_of_withExt (i := .ptIssmall d a) h2 rfl he, isIdent_iff (mulcof_is ie)⟩⟩
  obtain ⟨hce, -⟩ := hve.stands
  obtain ⟨hcf, -⟩ := hvf.stands
  exact hEq.trans ⟨fun ⟨hy, hx⟩ => aff_eq_of_parity hce hcf hy hx, fun h => by rw [h]; exact ⟨rfl, rfl⟩⟩

end Sys2Proof.Machine

/-! SUPPORT. The points of small order (43_point.md R263): 8 times a point `(x, y)` is the identity exactly when
`x = 0`, `y = 0` or `x² + y² = 0`, and the last of these has the two values of `y` that R263 lists. -/
namespace Sys2Proof.Machine

/-! ### Doublings that reach the identity -/

theorem affAdd_self_fst_eq_zero_iff {a : GF × GF} (ha : OnCurve a.1 a.2) :
    (affAdd a a).1 = 0 ↔ a.1 = 0 ∨ a.2 = 0 := by
  have := Fact.mk p_prime
  obtain ⟨hx, -⟩ := affAdd_mul_denom ha ha
  rw [← mul_eq_zero_iff_right (one_add_gfDenom_ne_zero ha ha), hx, ← two_mul, mul_eq_zero_iff_left gf_two_ne_zero,
    mul_eq_zero]

theorem affAdd_self_snd_eq_zero_iff {a : GF × GF} (ha : OnCurve a.1 a.2) :
    (affAdd a a).2 = 0 ↔ a.1 ^ 2 + a.2 ^ 2 = 0 := by
  have := Fact.mk p_prime
  obtain ⟨-, hy⟩ := affAdd_mul_denom ha ha
  rw [← mul_eq_zero_iff_right (one_sub_gfDenom_ne_zero ha ha), hy, ← sq, ← sq, add_comm]

theorem OnCurve.snd_sq_of_fst_zero {y : GF} (h : OnCurve 0 y) : y ^ 2 = 1 := by
  rw [OnCurve] at h
  linear_combination h

/-- The points of order 1 and 2 are those with `x = 0`. -/
theorem affAdd_self_eq_identity_iff {a : GF × GF} (ha : OnCurve a.1 a.2) : affAdd a a = (0, 1) ↔ a.1 = 0 := by
  have hcurve := ha
  obtain ⟨-, hy⟩ := affAdd_mul_denom ha ha
  rw [OnCurve] at hcurve
  rw [gfDenom] at hy
  rw [Prod.ext_iff, affAdd_self_fst_eq_zero_iff ha]
  constructor
  · rintro ⟨h | h, h1⟩
    · exact h
    · rw [h1, h] at hy
      rw [h] at hcurve
      exact absurd (by linear_combination hy - hcurve) gf_two_ne_zero
  · intro h
    have hsq := OnCurve.snd_sq_of_fst_zero (h ▸ ha)
    rw [h] at hy
    exact ⟨.inl h, by linear_combination hy + hsq⟩

/-- 8 times a point is the identity: its double's double has `x = 0`. -/
theorem affAdd_eight_eq_identity_iff {a : GF × GF} (ha : OnCurve a.1 a.2) :
    affAdd (affAdd (affAdd a a) (affAdd a a)) (affAdd (affAdd a a) (affAdd a a)) = (0, 1) ↔
      a.1 = 0 ∨ a.2 = 0 ∨ a.1 ^ 2 + a.2 ^ 2 = 0 := by
  have h2 := onCurve_affAdd ha ha
  rw [affAdd_self_eq_identity_iff (onCurve_affAdd h2 h2), affAdd_self_fst_eq_zero_iff h2,
    affAdd_self_fst_eq_zero_iff ha, affAdd_self_snd_eq_zero_iff ha, or_assoc]

/-! ### The values of `y` -/

/-- The `y` of the points of order 8, up to its sign (R263). -/
def ySmall : Nat := 0x05fc536d880238b13933c6d305acdfd5f098eff289f4c345b027b2c28f95e826

theorem ySmall_root : gfD * (ySmall : GF) ^ 4 + 2 * ySmall ^ 2 = 1 := by
  have h := (gf_natCast_eq_iff (feEdwardsD.fval * ySmall ^ 4 + 2 * ySmall ^ 2) 1).2 (by decide +kernel)
  have hd : (feEdwardsD.fval : GF) = gfD := rfl
  push_cast [hd] at h
  exact h

theorem gf_natCast_p_sub_one : ((p - 1 : Nat) : GF) = -1 := by
  rw [Nat.cast_sub (by decide), ZMod.natCast_self, Nat.cast_one, zero_sub]

/-- The other root of `d t² + 2 t = 1` is no square. -/
theorem ySmall_other_not_square (r : GF) : r ^ 2 ≠ -(gfD ^ 2 * (ySmall : GF) ^ 2 + 2 * gfD) := by
  have h := gf_not_square ((p - 1) * (feEdwardsD.fval ^ 2 * ySmall ^ 2 + 2 * feEdwardsD.fval)) (by decide +kernel) r
  have hd : (feEdwardsD.fval : GF) = gfD := rfl
  rw [Nat.cast_mul, gf_natCast_p_sub_one] at h
  push_cast [hd] at h
  rwa [neg_one_mul] at h

/-- `x² + y² = 0` on the curve fixes `y` up to its sign. -/
theorem OnCurve.sq_add_sq_eq_zero_iff {x y : GF} (h : OnCurve x y) :
    x ^ 2 + y ^ 2 = 0 ↔ y = ySmall ∨ y = -ySmall := by
  have := Fact.mk p_prime
  have hroot := ySmall_root
  have hfactor : (x ^ 2 + y ^ 2) * (gfD * y ^ 2 + 1) = (y ^ 2 - ySmall ^ 2) * (gfD * (y ^ 2 + ySmall ^ 2) + 2) := by
    rw [onCurve_iff_sq_mul] at h
    linear_combination h + hroot
  have hne : gfD * (y ^ 2 + ySmall ^ 2) + 2 ≠ 0 := fun h0 =>
    ySmall_other_not_square (gfD * y) (by linear_combination gfD * h0)
  rw [← mul_eq_zero_iff_right (gfD_mul_sq_add_one_ne_zero y), hfactor, mul_eq_zero_iff_right hne, sub_eq_zero,
    sq_eq_sq_iff_eq_or_eq_neg]

/-- A point of the curve has `x = 0` exactly where `y² = 1`. -/
theorem OnCurve.fst_eq_zero_iff {x y : GF} (h : OnCurve x y) : x = 0 ↔ y = 1 ∨ y = -1 := by
  have := Fact.mk p_prime
  rw [← sq_eq_one_iff]
  refine ⟨fun h0 => OnCurve.snd_sq_of_fst_zero (h0 ▸ h), fun hy => ?_⟩
  have hx := (onCurve_iff_sq_mul x y).1 h
  rw [hy, mul_one, sub_self, mul_eq_zero_iff_right gfD_add_one_ne_zero] at hx
  exact pow_eq_zero_iff two_ne_zero |>.1 hx

/-! ### The encodings -/

theorem gf_eq_natCast_iff (y : GF) {n : Nat} (hn : n < p) : y = n ↔ y.val = n := by
  have := Fact.mk p_prime
  rw [← ZMod.val_natCast_of_lt hn, (ZMod.val_injective p).eq_iff, ZMod.val_natCast_of_lt hn]

theorem gf_eq_neg_natCast_iff (y : GF) {n : Nat} (hn : n ≤ p) (h0 : 0 < n) : y = -n ↔ y.val = p - n := by
  rw [← gf_eq_natCast_iff y (by omega), Nat.cast_sub hn, ZMod.natCast_self, zero_sub]

/-- The eight encodings of R263, by `y` and the sign bit. -/
theorem mem_smallEncodings_iff {y s : Nat} (hy : y < 2 ^ 255) (hs : s < 2) :
    y + s * 2 ^ 255 ∈
      [1, p - 1, 0, 2 ^ 255,
        0x05fc536d880238b13933c6d305acdfd5f098eff289f4c345b027b2c28f95e826,
        0x85fc536d880238b13933c6d305acdfd5f098eff289f4c345b027b2c28f95e826,
        0x7a03ac9277fdc74ec6cc392cfa53202a0f67100d760b3cba4fd84d3d706a17c7,
        0xfa03ac9277fdc74ec6cc392cfa53202a0f67100d760b3cba4fd84d3d706a17c7] ↔
      (s = 0 ∧ (y = 1 ∨ y = p - 1)) ∨ y = 0 ∨ y = ySmall ∨ y = p - ySmall := by
  simp only [List.mem_cons, List.not_mem_nil, or_false, p, ySmall]
  omega

theorem isIdent_iff_of_at {e : Ext} {a : GF × GF} : e.At a → (isIdent e = true ↔ a = (0, 1)) := by
  rintro ⟨g, h, -, z, hz, rfl⟩
  have := Fact.mk p_prime
  rw [isIdent_iff h, Prod.ext_iff]
  exact and_congr (mul_eq_zero_iff_right hz) (mul_eq_right₀ hz)

/-- Settles O41: the test is `x = 0`, `y = 0` or `x² + y² = 0`, and these are the encodings with `y = ±1`, `y = 0` and
the two roots; with `x = 0` the sign bit is clear. -/
theorem smallOrderPoints : Obligations.SmallOrderPoints := by
  unfold Obligations.SmallOrderPoints
  intro s d a e hwf he hb hv
  have := Fact.mk p_prime
  refine ⟨isSmall e, exec_of_withExt hwf rfl he, ?_⟩
  have hc : OnCurve e.gf.aff.1 e.gf.aff.2 := hv.stands.1
  rw [isSmall, isIdent_iff_of_at (mulcof_at (Ext.at_aff hb hv)), affAdd_eight_eq_identity_iff hc,
    le_compress (Ext.is_gf hb)]
  generalize e.gf.aff = q at hc ⊢
  have hx : q.1 = 0 ↔ q.1.val % 2 = 0 ∧ (q.2.val = 1 ∨ q.2.val = p - 1) := by
    rw [← gf_eq_natCast_iff q.2 (n := 1) (by decide), ← gf_eq_neg_natCast_iff q.2 (by decide) (by decide), Nat.cast_one,
      ← hc.fst_eq_zero_iff]
    exact ⟨fun h => ⟨by rw [h, ZMod.val_zero], h⟩, And.right⟩
  rw [mem_smallEncodings_iff (gf_val_lt q.2) (Nat.mod_lt _ (by decide)), hc.sq_add_sq_eq_zero_iff, hx,
    gf_eq_natCast_iff q.2 (n := ySmall) (by decide), gf_eq_neg_natCast_iff q.2 (n := ySmall) (by decide) (by decide),
    ← ZMod.val_eq_zero q.2]

end Sys2Proof.Machine

/-! SUPPORT. The points of the curve form an abelian group under the law of 43_point.md R260. The law is complete, so
associativity of the `x` is one polynomial identity; the translation by the point `(i, 0)`, which exchanges the
coordinates, gives it for the `y`. -/
namespace Sys2Proof.Machine

/-! ### The `x` of a sum of three points -/

/-- The numerator of the `x` of `(a + b) + c`, with the denominators of `a + b` cleared. -/
def sumNum (a b c : GF × GF) : GF :=
  (a.1 * b.2 + b.1 * a.2) * (1 - gfDenom a b) * c.2 + c.1 * ((a.2 * b.2 + a.1 * b.1) * (1 + gfDenom a b))

/-- The denominator of the `x` of `(a + b) + c`, with the denominators of `a + b` cleared. -/
def sumDen (a b c : GF × GF) : GF :=
  1 - gfDenom a b ^ 2 + gfD * (a.1 * b.2 + b.1 * a.2) * (a.2 * b.2 + a.1 * b.1) * c.1 * c.2

/-- The `x` of `a + b + c` were `d` equal to 0, which does not depend on the order. -/
def tripleX (a b c : GF × GF) : GF :=
  a.1 * b.2 * c.2 + a.2 * b.1 * c.2 + a.2 * b.2 * c.1 + a.1 * b.1 * c.1

/-- How far a pair is from the curve. -/
def curveDefect (a : GF × GF) : GF := -a.1 ^ 2 + a.2 ^ 2 - (1 + gfD * a.1 ^ 2 * a.2 ^ 2)

theorem OnCurve.curveDefect_eq_zero {a : GF × GF} (h : OnCurve a.1 a.2) : curveDefect a = 0 := sub_eq_zero.2 h

/-- The two bracketings differ by multiples of the curve equations. -/
theorem sumNum_mul_sumDen_sub (a b c : GF × GF) :
    sumNum a b c * sumDen c b a - sumNum c b a * sumDen a b c =
      gfD * (b.1 * b.2) *
        ((c.1 * c.2 * tripleX a (affNeg b) (affNeg c) + gfD * (b.1 * b.2) * tripleX a b c * (c.1 * c.2) ^ 2) *
            curveDefect a -
          gfD * (a.1 * a.2) * (c.1 * c.2) *
            (a.1 * a.2 * tripleX a (affNeg b) (affNeg c) - c.1 * c.2 * tripleX (affNeg a) (affNeg b) c) *
            curveDefect b -
          (a.1 * a.2 * tripleX (affNeg a) (affNeg b) c + gfD * (b.1 * b.2) * tripleX a b c * (a.1 * a.2) ^ 2) *
            curveDefect c) := by
  simp only [sumNum, sumDen, tripleX, curveDefect, gfDenom, affNeg]
  ring

/-! ### The laws of the group -/

theorem affAdd_comm (a b : GF × GF) : affAdd a b = affAdd b a := by
  have hk : gfDenom a b = gfDenom b a := by rw [gfDenom, gfDenom]; ring
  rw [affAdd_eq, affAdd_eq, hk, add_comm (a.1 * b.2), mul_comm a.2, mul_comm a.1 b.1]

theorem zero_affAdd (a : GF × GF) : affAdd (0, 1) a = a := by
  have h1 : gfInv 1 = 1 := one_pow _
  have hk : gfDenom (0, 1) a = 0 := by rw [gfDenom]; ring
  rw [affAdd_eq, hk, add_zero, sub_zero, h1]
  ext <;> dsimp only <;> ring

theorem affNeg_affAdd {a : GF × GF} (ha : OnCurve a.1 a.2) : affAdd (affNeg a) a = (0, 1) := by
  have := Fact.mk p_prime
  have hn : OnCurve (affNeg a).1 (affNeg a).2 := (onCurve_neg_iff ..).2 ha
  obtain ⟨hx, hy⟩ := affAdd_mul_denom hn ha
  have hp := one_add_gfDenom_ne_zero hn ha
  have hm := one_sub_gfDenom_ne_zero hn ha
  rw [OnCurve] at ha
  refine Prod.ext (mul_right_cancel₀ hp ?_) (mul_right_cancel₀ hm ?_)
  · rw [hx, affNeg]; ring
  · rw [hy, affNeg, gfDenom]; linear_combination ha

section
variable {a b c : GF × GF} (ha : OnCurve a.1 a.2) (hb : OnCurve b.1 b.2) (hc : OnCurve c.1 c.2)
include ha hb hc

omit hc in
theorem sumDen_eq : sumDen a b c =
    (1 + gfDenom a b) * (1 - gfDenom a b) * (1 + gfDenom (affAdd a b) c) := by
  obtain ⟨hx, hy⟩ := affAdd_mul_denom ha hb
  have hk : gfDenom (affAdd a b) c = gfD * (affAdd a b).1 * c.1 * (affAdd a b).2 * c.2 := rfl
  rw [sumDen, hk, ← hx, ← hy]
  ring

theorem sumDen_ne_zero : sumDen a b c ≠ 0 := by
  have := Fact.mk p_prime
  rw [sumDen_eq ha hb]
  exact mul_ne_zero (mul_ne_zero (one_add_gfDenom_ne_zero ha hb) (one_sub_gfDenom_ne_zero ha hb))
    (one_add_gfDenom_ne_zero (onCurve_affAdd ha hb) hc)

theorem affAdd_affAdd_fst_mul : (affAdd (affAdd a b) c).1 * sumDen a b c = sumNum a b c := by
  obtain ⟨hx, hy⟩ := affAdd_mul_denom ha hb
  obtain ⟨hx', -⟩ := affAdd_mul_denom (onCurve_affAdd ha hb) hc
  rw [sumDen_eq ha hb, sumNum, ← hx, ← hy]
  linear_combination (1 + gfDenom a b) * (1 - gfDenom a b) * hx'

theorem affAdd_assoc_fst : (affAdd (affAdd a b) c).1 = (affAdd a (affAdd b c)).1 := by
  have := Fact.mk p_prime
  have hswap : sumNum a b c * sumDen c b a = sumNum c b a * sumDen a b c := by
    rw [← sub_eq_zero, sumNum_mul_sumDen_sub, ha.curveDefect_eq_zero, hb.curveDefect_eq_zero, hc.curveDefect_eq_zero]
    ring
  rw [affAdd_comm a (affAdd b c), affAdd_comm b c]
  refine mul_right_cancel₀ (mul_ne_zero (sumDen_ne_zero ha hb hc) (sumDen_ne_zero hc hb ha)) ?_
  linear_combination sumDen c b a * affAdd_affAdd_fst_mul ha hb hc + hswap -
    sumDen a b c * affAdd_affAdd_fst_mul hc hb ha

end

/-- The translation by the point `(i, 0)`, which exchanges the coordinates up to `i`. -/
def rotate (a : GF × GF) : GF × GF := (gfI * a.2, gfI * a.1)

theorem onCurve_rotate {a : GF × GF} (ha : OnCurve a.1 a.2) : OnCurve (rotate a).1 (rotate a).2 := by
  have hi := gfI_sq
  rw [OnCurve] at ha ⊢
  rw [rotate, mul_pow, mul_pow, hi]
  linear_combination ha

theorem affAdd_rotate (a b : GF × GF) : affAdd a (rotate b) = rotate (affAdd a b) := by
  have hk : gfDenom a (rotate b) = -gfDenom a b := by
    rw [gfDenom, gfDenom, rotate]
    linear_combination gfD * a.1 * a.2 * b.1 * b.2 * gfI_sq
  rw [affAdd_eq, affAdd_eq, hk, ← sub_eq_add_neg, sub_neg_eq_add, rotate, rotate]
  ext <;> dsimp only <;> ring

/-- The law of 43_point.md R260 is associative on the curve. -/
theorem affAdd_assoc {a b c : GF × GF} (ha : OnCurve a.1 a.2) (hb : OnCurve b.1 b.2) (hc : OnCurve c.1 c.2) :
    affAdd (affAdd a b) c = affAdd a (affAdd b c) := by
  have := Fact.mk p_prime
  refine Prod.ext (affAdd_assoc_fst ha hb hc) ?_
  have h := affAdd_assoc_fst ha hb (onCurve_rotate hc)
  rw [affAdd_rotate, affAdd_rotate, affAdd_rotate] at h
  have hi : gfI ≠ 0 := fun h0 => one_ne_zero (by linear_combination gfI_sq - gfI * h0)
  exact mul_left_cancel₀ hi h

/-! ### The group -/

/-- The points of the curve. -/
abbrev CurvePoint := {a : GF × GF // OnCurve a.1 a.2}

/-- The group of the points of the curve (43_point.md R260). -/
@[reducible] def curveGroup : AddCommGroup CurvePoint :=
  letI : Add CurvePoint := ⟨fun P Q => ⟨affAdd P.1 Q.1, onCurve_affAdd P.2 Q.2⟩⟩
  letI : Neg CurvePoint := ⟨fun P => ⟨affNeg P.1, (onCurve_neg_iff ..).2 P.2⟩⟩
  letI : Zero CurvePoint := ⟨⟨(0, 1), onCurve_identity⟩⟩
  { AddGroup.ofLeftAxioms (G := CurvePoint) (fun P Q R => Subtype.ext (affAdd_assoc P.2 Q.2 R.2))
      (fun P => Subtype.ext (zero_affAdd P.1)) (fun P => Subtype.ext (affNeg_affAdd P.2)) with
    add_comm := fun P Q => Subtype.ext (affAdd_comm P.1 Q.1) }

/-- A group whose elements stand for the points of the curve: `c` gives the point of an element. -/
structure IsPointGroup {G : Type} [AddCommGroup G] (c : G → GF × GF) : Prop where
  zero : c 0 = (0, 1)
  add : ∀ P Q, c (P + Q) = affAdd (c P) (c Q)
  neg : ∀ P, c (-P) = affNeg (c P)
  surj : ∀ a, OnCurve a.1 a.2 → ∃ P, c P = a

theorem exists_pointGroup : ∃ (G : Type) (_ : AddCommGroup G) (c : G → GF × GF), IsPointGroup c :=
  letI := curveGroup
  ⟨CurvePoint, curveGroup, Subtype.val, ⟨rfl, fun _ _ => rfl, fun _ => rfl, fun a h => ⟨⟨a, h⟩, rfl⟩⟩⟩

/-- The multiples by repeated addition are those of the group. -/
theorem IsPointGroup.affMul {G : Type} [AddCommGroup G] {c : G → GF × GF} (hc : IsPointGroup c) (P : G) (n : Nat) :
    affMul (c P) n = c (n • P) := by
  induction n with
  | zero => rw [Machine.affMul, zero_nsmul, hc.zero]
  | succ n ih => rw [Machine.affMul, ih, ← hc.add, succ_nsmul]

end Sys2Proof.Machine

/-! SUPPORT. The multipliers of 44_scalarmul_msm.md on loose limbs: tables, digits and accumulators have the components
their algorithms give over GF(p). -/
namespace Sys2Proof.Machine

/-! ### Tables (R321, R326, R327) -/

theorem extIdentity_is : extIdentity.Is gIdentity := ⟨feZero_is, feOne_is, feOne_is, feZero_is⟩

theorem projIdentity_is : projIdentity.Is ⟨0, 1, 1⟩ := ⟨feZero_is, feOne_is, feOne_is⟩

theorem anielsIdentity_is : anielsIdentity.Is ⟨1, 1, 0⟩ := ⟨feOne_is, feOne_is, feZero_is⟩

theorem pnielsIdentity_is : pnielsIdentity.Is gIdentity.toPN := by
  refine ⟨?_, ?_, feOne_is, ?_⟩ <;> simp only [gIdentity, GExt.toPN, add_zero, sub_zero, zero_mul]
  · exact feOne_is
  · exact feOne_is
  · exact feZero_is

/-- A table of loose contents with given components. -/
abbrev TableIs : List PNiels → List GPNiels → Prop := List.Forall₂ PNiels.Is

/-- Entries with a relation are chosen alike by one index. -/
theorem forall₂_getD {α β : Type} {R : α → β → Prop} {l : List α} {m : List β} (h : List.Forall₂ R l m) {x : α} {y : β}
    (hxy : R x y) (k : Nat) : R (l.getD k x) (m.getD k y) := by
  induction h generalizing k with
  | nil => exact hxy
  | cons h _ ih =>
    cases k with
    | zero => exact h
    | succ k => exact ih k

theorem tableFrom_is {q : Ext} {g : GExt} {t : PNiels} {u : GPNiels} (hq : q.Is g) (ht : t.Is u) (n : Nat) :
    TableIs (t :: tableFrom q t n) (gTable g u (n + 1)) := by
  induction n generalizing t u with
  | zero => exact .cons ht .nil
  | succ n ih =>
    rw [tableFrom, strictPN_eq]
    exact .cons ht (ih (e2pn_is (c2e_is (addPN_is hq ht))))

theorem lutBuild_is {e : Ext} {g : GExt} (h : e.Is g) : TableIs (lutBuild e) (gTable g g.toPN 8) := by
  rw [lutBuild, strictPN_eq]
  exact tableFrom_is h (e2pn_is h) 7

theorem naf5Build_is {e : Ext} {g : GExt} (h : e.Is g) : TableIs (naf5Build e) g.nafTable := by
  rw [naf5Build, strictExt_eq, strictPN_eq]
  exact tableFrom_is (edbl_is h) (e2pn_is h) 7

@[simp] theorem gTable_length (q : GExt) (t : GPNiels) (n : Nat) : (gTable q t n).length = n := by
  induction n generalizing t with
  | zero => rfl
  | succ n ih => rw [gTable, List.length_cons, ih]

theorem baseTable_is : List.Forall₂ ANiels.Is baseTable (baseTable.map ANiels.gf) := by
  rw [List.forall₂_map_right_iff, List.forall₂_same]
  intro n hn
  obtain ⟨v, hv, -⟩ := baseTable_alike n hn
  obtain ⟨hb, -⟩ := (n.is_iff v).1 hv
  exact ANiels.is_gf hb

/-! ### The mask scan (R322) -/

theorem absDigit_toNat (x : Byte) : (absDigit x).toNat = x.toInt.natAbs := by
  revert x
  decide +kernel

/-- The scan of a table from index `j` on chooses the entry of the index it is given, and none but that. -/
theorem lutScan_eq (x : BitVec 16) (t : List PNiels) (j : Nat) (r : PNiels) (hj : j + t.length ≤ 2 ^ 16) :
    lutScan x t j r = if j ≤ x.toNat then t.getD (x.toNat - j) r else r := by
  induction t generalizing j r with
  | nil => rw [List.getD_nil, ite_self]; rfl
  | cons n t ih =>
    rw [List.length_cons] at hj
    have heq : (x == BitVec.ofNat 16 j) = decide (x.toNat = j) := by
      rw [Bool.eq_iff_iff, beq_iff_eq, decide_eq_true_iff, ← BitVec.toNat_inj, BitVec.toNat_ofNat,
        Nat.mod_eq_of_lt (by omega)]
    rw [lutScan, strictPN_eq, selPN_eq, heq, ih (j + 1) _ (by omega)]
    rcases Nat.lt_trichotomy x.toNat j with hlt | hxj | hgt
    · simp [hlt.ne, hlt.not_ge, show ¬j + 1 ≤ x.toNat by omega]
    · simp [hxj]
    · obtain ⟨k, hk⟩ : ∃ k, x.toNat - j = k + 1 := ⟨x.toNat - (j + 1), by omega⟩
      rw [if_pos (show j + 1 ≤ x.toNat by omega), if_pos hgt.le, hk, List.getD_cons_succ, Nat.sub_add_eq, hk,
        decide_eq_false hgt.ne']
      rfl

theorem lutSelect_is {t : List PNiels} {u : List GPNiels} (ht : TableIs t u) (hlen : t.length = 8) {d : Int}
    (hd : IsDigit d) : (lutSelect t (digitByte d)).Is (gLookup u d) := by
  have hid := pnielsIdentity_is
  have hx : (absDigit (digitByte d)).toNat = d.natAbs := by rw [absDigit_toNat, digitByte_toInt hd]
  have hneg : (digitByte d).slt 0 = decide (d < 0) := by rw [BitVec.slt, digitByte_toInt hd]; rfl
  rw [lutSelect, cnegPN_eq, hneg, lutScan_eq _ _ _ _ (by omega), hx, gLookup]
  rcases lt_trichotomy d 0 with hlt | rfl | hgt
  · rw [if_pos (decide_eq_true hlt), if_pos (by omega), if_neg (by omega), if_pos hlt,
      show (-d - 1).toNat = d.natAbs - 1 by omega]
    exact negPN_is (forall₂_getD ht hid _)
  · exact hid
  · rw [if_neg (by simpa using hgt.le), if_pos (by omega), if_pos hgt, show (d - 1).toNat = d.natAbs - 1 by omega]
    exact forall₂_getD ht hid _

/-! ### PT_SMUL (R325) -/

theorem dbl4_is {a : Compl} {g : GCompl} (h : a.Is g) :
    (dbl4 a).Is g.toProj.dbl.toProj.dbl.toProj.dbl.toProj.dbl := by
  simp only [dbl4, strictCompl_eq]
  exact dbl_is (c2p_is (dbl_is (c2p_is (dbl_is (c2p_is (dbl_is (c2p_is h)))))))

theorem smulLoop_is {t : List PNiels} {u : List GPNiels} (ht : TableIs t u) (hlen : t.length = 8) {ds : List Int}
    (hd : ∀ d ∈ ds, IsDigit d) (i : Nat) (hi : i ≤ ds.length) {a : Compl} {g : GCompl} (h : a.Is g) :
    (smulLoop t ds i a).Is ((ds.take i).reverse.foldl (gSmulStep u) g) := by
  induction i generalizing a g with
  | zero => exact h
  | succ i ih =>
    have hget : ds.getD i 0 = ds[i] := List.getD_eq_getElem ..
    simp only [smulLoop, strictCompl_eq]
    rw [List.take_succ_eq_append_getElem hi, List.reverse_append, List.reverse_singleton, List.singleton_append,
      List.foldl_cons, hget]
    exact ih (by omega) (addPN_is (c2e_is (dbl4_is h)) (lutSelect_is ht hlen (hd _ (List.getElem_mem hi))))

theorem reverse_eq_cons_of_length {α : Type} {l : List α} {k : Nat} (h : l.length = k + 1) :
    l.reverse = l[k] :: (l.take k).reverse := by
  rw [← List.reverse_concat, ← List.take_succ_eq_append_getElem, List.take_of_length_le h.le]

theorem smul_is {e : Ext} {g : GExt} (h : e.Is g) {n : Nat} (hn : n < 2 ^ 255) : (smul e n).Is (g.smul n) := by
  have ht := lutBuild_is h
  have hlen : (lutBuild e).length = 8 := by rw [ht.length_eq, gTable_length]
  have hdig : ∀ d ∈ scRadix16 n, IsDigit d := scRadix2w_isDigit (w := 4) hn le_rfl (by decide)
  have h64 := scRadix16_length n
  have hlast : (scRadix16 n).getD 63 0 = (scRadix16 n)[63] := List.getD_eq_getElem ..
  have hrev := reverse_eq_cons_of_length h64
  simp only [smul, strictCompl_eq, GExt.smul, hrev, hlast]
  exact c2e_is (smulLoop_is ht hlen hdig 63 (by omega)
    (addPN_is extIdentity_is (lutSelect_is ht hlen (hdig _ (List.getElem_mem _)))))

/-! ### PT_DSMB (R328, R329) -/

theorem applyPN_is {t : List PNiels} {u : List GPNiels} (ht : TableIs t u) (x : Int) {a : Compl} {g : GCompl}
    (h : a.Is g) : (applyPN t x a).Is (gApplyPN u g x) := by
  have hentry := forall₂_getD ht pnielsIdentity_is
  unfold applyPN gApplyPN
  split
  · exact addPN_is (c2e_is h) (hentry _)
  · split
    · exact subPN_is (c2e_is h) (hentry _)
    · exact h

theorem applyAN_is {t : List ANiels} {u : List GANiels} (ht : List.Forall₂ ANiels.Is t u) (x : Int) {a : Compl}
    {g : GCompl} (h : a.Is g) : (applyAN t x a).Is (gApplyAN u g x) := by
  have hentry := forall₂_getD ht anielsIdentity_is
  unfold applyAN gApplyAN
  split
  · exact addAN_is (c2e_is h) (hentry _)
  · split
    · exact subAN_is (c2e_is h) (hentry _)
    · exact h

theorem foldl_range_succ_reverse {α : Type} (f : α → Nat → α) (a : α) (n : Nat) :
    (List.range (n + 1)).reverse.foldl f a = (List.range n).reverse.foldl f (f a n) := by
  rw [List.range_succ, List.reverse_append]
  rfl

theorem dsmbStep_is (an bn : List Int) {t : List PNiels} {u : List GPNiels} (ht : TableIs t u) (i : Nat) {r : Proj}
    {g : GProj} (h : r.Is g) : (dsmbStep an bn t i r).Is (gDsmbStep an bn u g i) := by
  simp only [dsmbStep, strictCompl_eq]
  exact c2p_is (applyAN_is baseTable_is _ (applyPN_is ht _ (dbl_is h)))

theorem dsmbLoop_is (an bn : List Int) {t : List PNiels} {u : List GPNiels} (ht : TableIs t u) (i : Nat) {r : Proj}
    {g : GProj} (h : r.Is g) :
    (dsmbLoop an bn t i r).Is ((List.range (i + 1)).reverse.foldl (gDsmbStep an bn u) g) := by
  induction i generalizing r g with
  | zero => exact dsmbStep_is an bn ht 0 h
  | succ i ih =>
    rw [dsmbLoop, strictProj_eq, foldl_range_succ_reverse]
    exact ih (dsmbStep_is an bn ht (i + 1) h)

/-- The scan for the first position is the largest position of a list that has a nonzero digit. -/
theorem topIndex_eq (an bn : List Int) (i : Nat) : topIndex an bn i =
    (((List.range (i + 1)).filter fun j => an.getD j 0 ≠ 0 ∨ bn.getD j 0 ≠ 0).getLast?).getD 0 := by
  induction i with
  | zero =>
    rw [topIndex, List.range_one, List.filter_singleton, cond_eq_ite]
    split <;> rfl
  | succ i ih =>
    rw [topIndex, ih, List.range_succ (n := i + 1), List.filter_append, List.filter_singleton, List.getLast?_append]
    split
    · next h => rw [decide_eq_true h]; rfl
    · next h => rw [decide_eq_false h]; rfl

theorem topIndex_255 (an bn : List Int) : topIndex an bn 255 = gTop an bn := topIndex_eq an bn 255

theorem dsmb_is (a : Nat) {e : Ext} {g : GExt} (h : e.Is g) (b : Nat) : (dsmb a e b).Is (GExt.dsmb a g b) := by
  have hloop := dsmbLoop_is (scNaf a NAF_W_A) (scNaf b NAF_W_B) (naf5Build_is h)
    (topIndex (scNaf a NAF_W_A) (scNaf b NAF_W_B) 255) projIdentity_is
  rw [topIndex_255] at hloop
  rw [dsmb, topIndex_255]
  exact p2e_is hloop

/-! ### MSM_RUN (R333) -/

/-- A prepared pair of one recoding whose table has given components. -/
def PreparedIs (a : List Int × List PNiels) (b : List Int × List GPNiels) : Prop := a.1 = b.1 ∧ TableIs a.2 b.2

theorem msmApply_is (i : Nat) {prs : List (List Int × List PNiels)} {qrs : List (List Int × List GPNiels)}
    (hp : List.Forall₂ PreparedIs prs qrs) {a : Compl} {g : GCompl} (h : a.Is g) :
    (msmApply i prs a).Is (qrs.foldl (fun acc qr => gApplyPN qr.2 acc (qr.1.getD i 0)) g) := by
  induction hp generalizing a g with
  | nil => exact h
  | cons hpr _ ih =>
    rw [msmApply, strictCompl_eq, hpr.1]
    exact ih (applyPN_is hpr.2 _ h)

theorem msmLoop_is {prs : List (List Int × List PNiels)} {qrs : List (List Int × List GPNiels)}
    (hp : List.Forall₂ PreparedIs prs qrs) (i : Nat) {r : Proj} {g : GProj} (h : r.Is g) :
    (msmLoop prs i r).Is ((List.range i).reverse.foldl (gMsmStep qrs) g) := by
  induction i generalizing r g with
  | zero => exact h
  | succ i ih =>
    simp only [msmLoop, strictCompl_eq, strictProj_eq]
    rw [foldl_range_succ_reverse]
    exact ih (c2p_is (msmApply_is i hp (dbl_is h)))

theorem msmSum_is {l : List MsmPair} (h : ∀ m ∈ l, m.point.Below 54) :
    (msmSum l).Is (gMsm (l.map fun m => (m.scalar.toNat, m.point.gf))) := by
  have hp : List.Forall₂ PreparedIs (l.map msmPrepare)
      ((l.map fun m => (m.scalar.toNat, m.point.gf)).map fun q => (scNaf q.1 5, q.2.nafTable)) := by
    rw [List.map_map, List.forall₂_map_left_iff, List.forall₂_map_right_iff, List.forall₂_same]
    exact fun m hm => ⟨rfl, naf5Build_is (Ext.is_gf (h m hm))⟩
  exact p2e_is (msmLoop_is hp 256 projIdentity_is)

/-! ### The statements -/

section
variable {s : State} {a b c d : RegNo} {e : Ext} {m n : Scalar}

theorem exec_ptSmul (hwf : (Instr.ptSmul d a b).WellFormed s.params) (he : s.readP a = some (.ext e))
    (hn : s.readS b = some n) :
    exec (.ptSmul d a b) s = .next (s.writeP d (.ext (smul e n.toNat))).retire := by
  refine exec_of_writes (ws := [.p d (some (.ext (smul e n.toNat)))]) hwf ?_
  rw [writes, bind_of_ok (srcP_of_readP he), bind_of_ok (srcS_of_readS hn), bind_of_ok (asExt_ext e)]
  rfl

theorem exec_ptDsmb (hwf : (Instr.ptDsmb d a b c).WellFormed s.params) (hm : s.readS a = some m)
    (he : s.readP b = some (.ext e)) (hn : s.readS c = some n) :
    exec (.ptDsmb d a b c) s = .next (s.writeP d (.ext (dsmb m.toNat e n.toNat))).retire := by
  refine exec_of_writes (ws := [.p d (some (.ext (dsmb m.toNat e n.toNat)))]) hwf ?_
  rw [writes, bind_of_ok (srcS_of_readS hm), bind_of_ok (srcP_of_readP he), bind_of_ok (srcS_of_readS hn),
    bind_of_ok (asExt_ext e)]
  rfl

theorem exec_msmPush (hwf : (Instr.msmPush a b).WellFormed s.params) (hn : s.readS a = some n)
    (he : s.readP b = some (.ext e)) (hlen : s.msm.length < s.params.msmCap) :
    exec (.msmPush a b) s = .next { s with msm := s.msm ++ [(⟨n, e⟩ : MsmPair)] }.retire := by
  refine exec_of_writes (ws := [.msm (s.msm ++ [⟨n, e⟩])]) hwf ?_
  rw [writes, bind_of_ok (srcS_of_readS hn), bind_of_ok (srcP_of_readP he), bind_of_ok (asExt_ext e),
    if_neg (Nat.not_le_of_lt hlen)]
  rfl

theorem exec_msmRun (hwf : (Instr.msmRun d).WellFormed s.params) (hne : s.msm ≠ []) :
    exec (.msmRun d) s = .next { s.writeP d (.ext (msmSum s.msm)) with msm := [] }.retire := by
  refine exec_of_writes (ws := [.p d (some (.ext (msmSum s.msm))), .msm []]) hwf ?_
  rw [writes, if_neg (mt List.length_eq_zero_iff.1 hne)]

end

/-- Settles O43. -/
theorem multiplierCommands : Obligations.MultiplierCommands := by
  unfold Obligations.MultiplierCommands
  refine ⟨fun s d a b e n hwf he hn hb hlt => ?_, fun s d a b c e m n hwf hm he hn hb _ _ => ?_⟩
  · obtain ⟨hq, eq⟩ := (Ext.is_iff ..).1 (smul_is (Ext.is_gf hb) hlt)
    exact ⟨_, hq, eq, exec_ptSmul hwf he hn⟩
  · obtain ⟨hq, eq⟩ := (Ext.is_iff ..).1 (dsmb_is m.toNat (Ext.is_gf hb) n.toNat)
    exact ⟨_, hq, eq, exec_ptDsmb hwf hm he hn⟩

/-- Settles O44. -/
theorem msmCommands : Obligations.MsmCommands := by
  unfold Obligations.MsmCommands
  refine ⟨fun s => exec_of_writes (ws := [.msm []]) rfl rfl,
    fun s a b n e hwf hn he hlen => exec_msmPush hwf hn he hlen, fun s d hwf hne hm => ?_⟩
  obtain ⟨hq, eq⟩ := (Ext.is_iff ..).1 (msmSum_is fun m hmem => (hm m hmem).1)
  exact ⟨_, hq, eq, exec_msmRun hwf hne⟩

end Sys2Proof.Machine

/-! SUPPORT. The basepoint table (44_scalarmul_msm.md R327): every entry stands for the sum of the entry before it and
`2B`. The sums are checked on natural numbers, without a division. -/
namespace Sys2Proof.Machine

/-! ### Sums of affine Niels forms -/

/-- A number of value `2 x` for an affine Niels form of `(x, y)`. -/
def ANiels.twiceX (n : ANiels) : Nat := n.ypx.fval + (p - n.ymx.fval)

/-- A number of value `2 y` for an affine Niels form of `(x, y)`. -/
def ANiels.twiceY (n : ANiels) : Nat := n.ypx.fval + n.ymx.fval

theorem ANiels.gf_of_stands {n : ANiels} {a : GF × GF} (h : n.gf.Stands a) :
    (n.ypx.fval : GF) = a.2 + a.1 ∧ (n.ymx.fval : GF) = a.2 - a.1 :=
  ⟨congrArg GANiels.ypx h.2, congrArg GANiels.ymx h.2⟩

theorem ANiels.twiceX_gf {n : ANiels} {a : GF × GF} (h : n.gf.Stands a) : (n.twiceX : GF) = 2 * a.1 := by
  obtain ⟨hu, hv⟩ := ANiels.gf_of_stands h
  rw [twiceX, Nat.cast_add, Nat.cast_sub n.ymx.fval_lt.le, ZMod.natCast_self, hu, hv]
  ring

theorem ANiels.twiceY_gf {n : ANiels} {a : GF × GF} (h : n.gf.Stands a) : (n.twiceY : GF) = 2 * a.2 := by
  obtain ⟨hu, hv⟩ := ANiels.gf_of_stands h
  rw [twiceY, Nat.cast_add, hu, hv]
  ring

/-- The addition law of 43_point.md R260 between three affine Niels forms, its denominators cleared. -/
def nielsSumCheck (n m k : ANiels) : Bool :=
  let denom := feEdwardsD.fval * n.twiceX * m.twiceX * n.twiceY * m.twiceY
  (k.twiceX * (16 + denom)) % p == (8 * (n.twiceX * m.twiceY + m.twiceX * n.twiceY)) % p &&
    (16 * k.twiceY) % p == (8 * (n.twiceY * m.twiceY + n.twiceX * m.twiceX) + k.twiceY * denom) % p

theorem eq_affAdd_of_nielsSumCheck {n m k : ANiels} {a b c : GF × GF} (hn : n.gf.Stands a) (hm : m.gf.Stands b)
    (hk : k.gf.Stands c) (h : nielsSumCheck n m k = true) : c = affAdd a b := by
  have := Fact.mk p_prime
  rw [nielsSumCheck, Bool.and_eq_true, beq_iff_eq, beq_iff_eq, ← gf_natCast_eq_iff, ← gf_natCast_eq_iff] at h
  have hd : (feEdwardsD.fval : GF) = gfD := rfl
  push_cast [hd, ANiels.twiceX_gf hn, ANiels.twiceY_gf hn, ANiels.twiceX_gf hm, ANiels.twiceY_gf hm,
    ANiels.twiceX_gf hk, ANiels.twiceY_gf hk] at h
  obtain ⟨hx, hy⟩ := h
  obtain ⟨hx', hy'⟩ := affAdd_mul_denom hn.1 hm.1
  have h32 : (32 : GF) ≠ 0 := by
    rw [show (32 : GF) = 2 ^ 5 by norm_num]
    exact pow_ne_zero 5 gf_two_ne_zero
  refine Prod.ext (mul_right_cancel₀ (mul_ne_zero h32 (one_add_gfDenom_ne_zero hn.1 hm.1)) ?_)
    (mul_right_cancel₀ (mul_ne_zero h32 (one_sub_gfDenom_ne_zero hn.1 hm.1)) ?_)
  · rw [gfDenom] at hx' ⊢
    linear_combination hx - 32 * hx'
  · rw [gfDenom] at hy' ⊢
    linear_combination hy - 32 * hy'

/-! ### The entries -/

/-- The affine Niels form of `2B`. -/
def baseDouble : ANiels :=
  anielsOf 0x590c063fa87d2e2e5aa69a65e1d607029f469d967a0ff5b59224e7fc933c71d7
    0x6bb595a669c92555e09e236bb16e37aa8f2b810c4e60acf68a99a56042b4d5a8
    0x701af5b13ea50b73500fa0840b3d6a3136c16bdd5d9acf7843faa8b3a59b7a5f

theorem extBase_aff : extBase.gf.aff = (extBase.X.gf, extBase.Y.gf) :=
  ((Ext.at_iff ..).1 extBase_at).2.aff_eq

theorem baseTable_length : baseTable.length = 64 := rfl

theorem baseTable_below51 : ∀ n ∈ baseTable, n.Below 51 := by decide +kernel

/-- The first entry is `B`: twice its coordinates are those of the basepoint. -/
theorem baseTable_first : (baseTable.getD 0 anielsIdentity).gf.Stands extBase.gf.aff := by
  have := Fact.mk p_prime
  obtain ⟨a, ha⟩ := aniels_stands_of_check (n := baseTable.getD 0 anielsIdentity) (by decide +kernel)
  have hx := (gf_natCast_eq_iff (baseTable.getD 0 anielsIdentity).twiceX (2 * extBase.X.fval)).2 (by decide +kernel)
  have hy := (gf_natCast_eq_iff (baseTable.getD 0 anielsIdentity).twiceY (2 * extBase.Y.fval)).2 (by decide +kernel)
  rw [ANiels.twiceX_gf ha, Nat.cast_mul, Nat.cast_two] at hx
  rw [ANiels.twiceY_gf ha, Nat.cast_mul, Nat.cast_two] at hy
  have hB : a = extBase.gf.aff := by
    rw [extBase_aff]
    exact Prod.ext (mul_left_cancel₀ gf_two_ne_zero hx) (mul_left_cancel₀ gf_two_ne_zero hy)
  exact hB ▸ ha

theorem baseDouble_stands : baseDouble.gf.Stands (affAdd extBase.gf.aff extBase.gf.aff) := by
  obtain ⟨a, ha⟩ := aniels_stands_of_check (n := baseDouble) (by decide +kernel)
  exact eq_affAdd_of_nielsSumCheck baseTable_first baseTable_first ha (by decide +kernel) ▸ ha

theorem baseTable_step : ∀ j < 63, nielsSumCheck (baseTable.getD j anielsIdentity) baseDouble
    (baseTable.getD (j + 1) anielsIdentity) = true := by decide +kernel

theorem baseTable_stands {G : Type} [AddCommGroup G] {c : G → GF × GF} (hc : IsPointGroup c) {B : G}
    (hB : c B = extBase.gf.aff) {j : Nat} (hj : j < 64) :
    (baseTable.getD j anielsIdentity).gf.Stands (c ((2 * j + 1) • B)) := by
  induction j with
  | zero => rw [Nat.mul_zero, Nat.zero_add, one_nsmul, hB]; exact baseTable_first
  | succ j ih =>
    have hj' : j < 63 := by omega
    have hmem : baseTable.getD (j + 1) anielsIdentity ∈ baseTable := by
      rw [List.getD_eq_getElem _ _ (baseTable_length ▸ hj)]
      exact List.getElem_mem _
    obtain ⟨a, ha⟩ := baseTable_sound hmem
    have hgf := ((ANiels.at_iff ..).1 ha).2
    have hsum := eq_affAdd_of_nielsSumCheck (ih (by omega)) baseDouble_stands hgf (baseTable_step j hj')
    have hadd : (2 * (j + 1) + 1) • B = (2 * j + 1) • B + (B + B) := by
      rw [← two_nsmul, ← add_nsmul, Nat.mul_succ, Nat.add_right_comm]
    rw [hadd, hc.add, hc.add, hB, ← hsum]
    exact hgf

/-- Settles O46. -/
theorem basepointTable : Obligations.BasepointTable := by
  unfold Obligations.BasepointTable
  refine ⟨baseTable_length, fun j hj => ?_⟩
  have hlt : j < baseTable.length := baseTable_length ▸ hj
  refine ⟨baseTable[j], List.getElem?_eq_getElem hlt, baseTable_below51 _ (List.getElem_mem hlt), fun x y hxy => ?_⟩
  obtain ⟨G, _, c, hc⟩ := exists_pointGroup
  obtain ⟨B, hB⟩ := hc.surj _ (((Ext.at_iff ..).1 extBase_at).2.1)
  rw [← extBase_aff] at hB
  obtain ⟨-, hn⟩ := baseTable_stands hc hB hj
  rw [← hc.affMul, hB, hxy, List.getD_eq_getElem _ _ hlt] at hn
  rw [hn]
  exact congrArg _ (by ring)

end Sys2Proof.Machine

/-! SUPPORT. The multipliers over GF(p) compute the multiples of the group (44_scalarmul_msm.md R320): tables hold the
multiples they are named after, every position of a scan multiplies what is accumulated by the radix and adds the
multiples of its digits. -/
namespace Sys2Proof.Machine

/-! ### Digits by position -/

theorem digitSum_drop (b : Int) (ds : List Int) (i : Nat) :
    digitSum b (ds.drop i) = ds.getD i 0 + b * digitSum b (ds.drop (i + 1)) := by
  induction ds generalizing i with
  | nil => simp
  | cons d ds ih =>
    cases i with
    | zero => rfl
    | succ i => exact ih i

theorem digitSum_drop_eq_zero (b : Int) {ds : List Int} {k : Nat} (h : ∀ i, k ≤ i → ds.getD i 0 = 0) :
    digitSum b (ds.drop k) = 0 := by
  induction ds generalizing k with
  | nil => rw [List.drop_nil, digitSum_nil]
  | cons d ds ih =>
    cases k with
    | zero =>
      have hd : d = 0 := h 0 le_rfl
      have hds : digitSum b (ds.drop 0) = 0 := ih fun i _ => h (i + 1) (Nat.zero_le _)
      rw [List.drop_zero] at hds ⊢
      rw [digitSum_cons, hd, hds, mul_zero, add_zero]
    | succ k => exact ih fun i hi => h (i + 1) (Nat.succ_le_succ hi)

/-- The integer of digits by Horner's rule, the highest digit first. -/
theorem digitSum_eq_foldl_reverse (b : Int) (ds : List Int) :
    digitSum b ds = ds.reverse.foldl (fun n d => d + b * n) 0 := by
  rw [List.foldl_reverse, digitSum]

theorem scRadix16_range {n : Nat} (hn : n < 2 ^ 255) : ∀ d ∈ scRadix16 n, -8 ≤ d ∧ d ≤ 8 := by
  have hlen := scRadix16_length n
  have hrange := scRadix2w_signedRadix (w := 4) hn le_rfl (by decide)
  have hlast := scRadix2w_last (w := 4) hn le_rfl (by decide)
  rw [scRadix2w, if_pos rfl] at hrange hlast
  intro d hd
  obtain ⟨j, hj, rfl⟩ := List.mem_iff_getElem.1 hd
  rw [← List.getD_eq_getElem _ 0 hj]
  obtain hlt | rfl : j < (scRadix16 n).length - 1 ∨ j = (scRadix16 n).length - 1 := by omega
  · obtain ⟨hlo, hhi⟩ := hrange.range hlt
    omega
  · omega

/-- A digit that is 0 or odd, with its table index below `k`. -/
def IsOddDigit (k : Nat) (x : Int) : Prop := x = 0 ∨ ∃ i < k, x = 2 * i + 1 ∨ x = -(2 * i + 1)

theorem IsNaf.isOddDigit {w : Nat} {ds : List Int} (h : IsNaf (w + 2) ds) (i : Nat) :
    IsOddDigit (2 ^ w) (ds.getD i 0) := by
  refine or_iff_not_imp_left.2 fun h0 => ?_
  obtain ⟨hodd, hlt, -⟩ := h i h0
  have hpow : 2 ^ (w + 2 - 1) = 2 * 2 ^ w := pow_succ' 2 w
  exact ⟨((ds.getD i 0).natAbs - 1) / 2, by omega, by omega⟩

theorem scNaf_isOddDigit (n w i : Nat) : IsOddDigit (2 ^ w) ((scNaf n (w + 2)).getD i 0) :=
  IsNaf.isOddDigit (nafLoop_isNaf (by omega) (by decide)) i

theorem scNaf_getD_of_le (n w : Nat) {i : Nat} (hi : 256 ≤ i) : (scNaf n w).getD i 0 = 0 :=
  List.getD_eq_default _ _ (by rwa [scNaf_length])

/-- Above the first position of the scan both recodings have only zeros. -/
theorem getD_of_topIndex_lt {an bn : List Int} {i j : Nat} (hlo : topIndex an bn i < j) (hhi : j ≤ i) :
    an.getD j 0 = 0 ∧ bn.getD j 0 = 0 := by
  induction i with
  | zero => omega
  | succ i ih =>
    rw [topIndex] at hlo
    split at hlo
    · omega
    · next h =>
      obtain rfl | hle : j = i + 1 ∨ j ≤ i := by omega
      · exact not_or.1 h |>.imp not_not.1 not_not.1
      · exact ih hlo hle

/-- A scan of positions from `n - 1` down to 0 that keeps a property of the positions done. -/
theorem foldl_range_reverse_induction {α : Type} {f : α → Nat → α} {M : Nat → α → Prop}
    (hstep : ∀ i a, M (i + 1) a → M i (f a i)) {n : Nat} {a : α} (h : M n a) :
    M 0 ((List.range n).reverse.foldl f a) := by
  induction n generalizing a with
  | zero => exact h
  | succ n ih =>
    rw [foldl_range_succ_reverse]
    exact ih (hstep n a h)

/-! ### The formulas in the group -/

section
variable {G : Type} [AddCommGroup G] {c : G → GF × GF} (hc : IsPointGroup c) {P Q R : G}
include hc

theorem gIdentity_stands_zero : gIdentity.Stands (c 0) := hc.zero ▸ gIdentity_stands

theorem dbl_stands {r : GProj} (h : r.Stands (c R)) : r.dbl.Stands (c (2 • R)) := by
  rw [two_nsmul, hc.add]
  exact h.dbl

theorem addPN_stands {e : GExt} {n : GPNiels} (h : e.Stands (c R)) (k : n.Stands (c Q)) :
    (e.addPN n).Stands (c (R + Q)) := by
  rw [hc.add]
  exact h.addPN k

theorem negPN_stands {n : GPNiels} (k : n.Stands (c Q)) : n.neg.Stands (c (-Q)) := by
  rw [hc.neg]
  exact k.neg

theorem subPN_stands {e : GExt} {n : GPNiels} (h : e.Stands (c R)) (k : n.Stands (c Q)) :
    (e.subPN n).Stands (c (R + -Q)) := by
  rw [GExt.subPN_eq]
  exact addPN_stands hc h (negPN_stands hc k)

/-! ### Tables and digits (R321, R322, R326, R328) -/

/-- Entry `k` of a table is its first entry and `k` times the point it steps by. -/
theorem gTable_stands {q : GExt} {t : GPNiels} (hq : q.Stands (c Q)) (ht : t.Stands (c R)) {n k : Nat} (hk : k < n) :
    ((gTable q t n).getD k gIdentity.toPN).Stands (c (R + (k : Int) • Q)) := by
  induction n generalizing t R k with
  | zero => exact absurd hk (Nat.not_lt_zero k)
  | succ n ih =>
    cases k with
    | zero => rwa [Nat.cast_zero, zero_smul, add_zero]
    | succ k =>
      have hsum : R + ((k + 1 : Nat) : Int) • Q = (Q + R) + (k : Int) • Q := by push_cast; module
      rw [hsum]
      exact ih (addPN_stands hc hq ht).toExt.toPN (Nat.lt_of_succ_lt_succ hk)

theorem gLookup_stands {q : GExt} (hq : q.Stands (c P)) {x : Int} (hlo : -8 ≤ x) (hhi : x ≤ 8) :
    (gLookup (gTable q q.toPN 8) x).Stands (c (x • P)) := by
  have hentry {k : Nat} (hk : k < 8) := gTable_stands hc hq hq.toPN hk
  rw [gLookup]
  rcases lt_trichotomy 0 x with hpos | rfl | hneg
  · obtain ⟨k, hk⟩ := Int.eq_ofNat_of_zero_le (show 0 ≤ x - 1 by omega)
    obtain rfl : x = k + 1 := by omega
    have hx : ((k : Int) + 1) • P = P + (k : Int) • P := by module
    rw [if_pos hpos, hk, hx]
    exact hentry (by omega)
  · rw [zero_smul]
    exact (gIdentity_stands_zero hc).toPN
  · obtain ⟨k, hk⟩ := Int.eq_ofNat_of_zero_le (show 0 ≤ -x - 1 by omega)
    obtain rfl : x = -(k + 1) := by omega
    have hx : (-((k : Int) + 1)) • P = -(P + (k : Int) • P) := by module
    rw [if_neg hneg.le.not_gt, if_pos hneg, hk, hx]
    exact negPN_stands hc (hentry (by omega))

/-- A table of odd multiples. -/
def IsOddTable (c : G → GF × GF) (P : G) (size : Nat) (t : List GPNiels) : Prop :=
  ∀ k < size, (t.getD k gIdentity.toPN).Stands (c ((2 * (k : Int) + 1) • P))

theorem GExt.Stands.nafTable {q : GExt} (hq : q.Stands (c P)) : IsOddTable c P 8 q.nafTable := fun k hk => by
  have hsum : (2 * (k : Int) + 1) • P = P + (k : Int) • (2 • P) := by module
  rw [hsum]
  exact gTable_stands hc (dbl_stands hc hq.toProj).toExt hq.toPN hk

omit hc in
theorem gIdentity_toPN : gIdentity.toPN = GANiels.toPN ⟨1, 1, 0⟩ := by
  simp only [gIdentity, GExt.toPN, GANiels.toPN, add_zero, sub_zero, zero_mul]

theorem baseTable_isOddTable {B : G} (hB : c B = extBase.gf.aff) :
    IsOddTable c B 64 ((baseTable.map ANiels.gf).map GANiels.toPN) := fun k hk => by
  have hlt : k < baseTable.length := baseTable_length ▸ hk
  have hst := baseTable_stands hc hB hk
  rw [List.getD_eq_getElem _ _ hlt, ← natCast_zsmul] at hst
  push_cast at hst
  rw [gIdentity_toPN, List.getD_map, List.getD_eq_getElem _ _ (by rwa [List.length_map]), List.getElem_map]
  exact hst.toPN

theorem gApplyPN_stands {size : Nat} {t : List GPNiels} (ht : IsOddTable c P size t) {acc : GCompl}
    (h : acc.Stands (c R)) {x : Int} (hx : IsOddDigit size x) : (gApplyPN t acc x).Stands (c (R + x • P)) := by
  rw [gApplyPN]
  obtain rfl | ⟨k, hk, rfl | rfl⟩ := hx
  · rwa [if_neg (lt_irrefl _), if_neg (lt_irrefl _), zero_smul, add_zero]
  · rw [if_pos (by omega), show ((2 * (k : Int) + 1 - 1) / 2).toNat = k by omega]
    exact addPN_stands hc h.toExt (ht k hk)
  · rw [if_neg (by omega), if_pos (by omega), show ((-(-(2 * (k : Int) + 1)) - 1) / 2).toNat = k by omega, neg_smul]
    exact subPN_stands hc h.toExt (ht k hk)

omit hc in
/-- A table of affine forms is applied as the table with `Z = 1`. -/
theorem gApplyAN_eq (t : List GANiels) (acc : GCompl) (x : Int) :
    gApplyAN t acc x = gApplyPN (t.map GANiels.toPN) acc x := by
  simp only [gApplyAN, gApplyPN, gIdentity_toPN, List.getD_map, GExt.addAN_eq, GExt.subAN_eq]

/-! ### PT_SMUL (R325) -/

theorem gSmulStep_stands {q : GExt} (hq : q.Stands (c P)) {acc : GCompl} {v x : Int} (h : acc.Stands (c (v • P)))
    (hlo : -8 ≤ x) (hhi : x ≤ 8) :
    (gSmulStep (gTable q q.toPN 8) acc x).Stands (c ((x + 16 * v) • P)) := by
  have h2 {a : GCompl} {R : G} (ha : a.Stands (c R)) := dbl_stands hc ha.toProj
  have hsum : (x + 16 * v) • P = 2 • 2 • 2 • 2 • v • P + x • P := by module
  rw [hsum]
  exact addPN_stands hc (h2 (h2 (h2 (h2 h)))).toExt (gLookup_stands hc hq hlo hhi)

theorem foldl_gSmulStep_stands {q : GExt} (hq : q.Stands (c P)) {xs : List Int} (hxs : ∀ x ∈ xs, -8 ≤ x ∧ x ≤ 8)
    {acc : GCompl} {v : Int} (h : acc.Stands (c (v • P))) :
    (xs.foldl (gSmulStep (gTable q q.toPN 8)) acc).Stands (c (xs.foldl (fun n x => x + 16 * n) v • P)) := by
  induction xs generalizing acc v with
  | nil => exact h
  | cons x xs ih =>
    obtain ⟨⟨hlo, hhi⟩, hxs⟩ := List.forall_mem_cons.1 hxs
    exact ih hxs (gSmulStep_stands hc hq h hlo hhi)

/-- PT_SMUL's `[n]P` (R320). -/
theorem GExt.smul_stands {q : GExt} (hq : q.Stands (c P)) {n : Nat} (hn : n < 2 ^ 255) :
    (q.smul n).Stands (c (n • P)) := by
  have hrange := scRadix16_range hn
  have hsum := digitSum_scRadix2w (w := 4) hn le_rfl (by decide)
  rw [scRadix2w, if_pos rfl, digitSum_eq_foldl_reverse] at hsum
  have hrev := reverse_eq_cons_of_length (scRadix16_length n)
  have hall : ∀ x ∈ (scRadix16 n).reverse, -8 ≤ x ∧ x ≤ 8 := fun x hx => hrange x (List.mem_reverse.1 hx)
  rw [hrev, List.forall_mem_cons] at hall
  obtain ⟨⟨hlo, hhi⟩, hrest⟩ := hall
  have hfirst := addPN_stands hc (gIdentity_stands_zero hc) (gLookup_stands hc hq hlo hhi)
  rw [hrev, List.foldl_cons, mul_zero, add_zero] at hsum
  rw [zero_add] at hfirst
  rw [← natCast_zsmul, ← hsum, GExt.smul, hrev]
  exact (foldl_gSmulStep_stands hc hq hrest hfirst).toExt

/-! ### PT_DSMB (R329) -/

theorem gDsmbStep_stands {t : List GPNiels} (ht : IsOddTable c P 8 t) {B : G} (hB : c B = extBase.gf.aff)
    {an bn : List Int} (ha : ∀ i, IsOddDigit 8 (an.getD i 0)) (hb : ∀ i, IsOddDigit 64 (bn.getD i 0)) (i : Nat) {r : GProj}
    (h : r.Stands (c (digitSum 2 (an.drop (i + 1)) • P + digitSum 2 (bn.drop (i + 1)) • B))) :
    (gDsmbStep an bn t r i).Stands (c (digitSum 2 (an.drop i) • P + digitSum 2 (bn.drop i) • B)) := by
  have hacc := gApplyPN_stands hc (baseTable_isOddTable hc hB) (gApplyPN_stands hc ht (dbl_stands hc h) (ha i)) (hb i)
  have hsum : digitSum 2 (an.drop i) • P + digitSum 2 (bn.drop i) • B =
      2 • (digitSum 2 (an.drop (i + 1)) • P + digitSum 2 (bn.drop (i + 1)) • B) + an.getD i 0 • P +
        bn.getD i 0 • B := by
    rw [digitSum_drop 2 an, digitSum_drop 2 bn]
    module
  rw [hsum, gDsmbStep, gApplyAN_eq]
  exact hacc.toProj

/-- PT_DSMB's `[a]A + [b]B` (R320): the positions above the first one add nothing. -/
theorem GExt.dsmb_stands {q : GExt} (hq : q.Stands (c P)) {B : G} (hB : c B = extBase.gf.aff) {a b : Nat}
    (ha : a < 2 ^ 255) (hb : b < 2 ^ 255) : (GExt.dsmb a q b).Stands (c (a • P + b • B)) := by
  have htop : ∀ i, gTop (scNaf a 5) (scNaf b 8) + 1 ≤ i → (scNaf a 5).getD i 0 = 0 ∧ (scNaf b 8).getD i 0 = 0 := by
    intro i hi
    obtain hlt | hge := Nat.lt_or_ge i 256
    · exact getD_of_topIndex_lt (i := 255) ((topIndex_255 _ _).trans_lt hi) (Nat.le_of_lt_succ hlt)
    · exact ⟨scNaf_getD_of_le a 5 hge, scNaf_getD_of_le b 8 hge⟩
  have hstart : GProj.Stands ⟨0, 1, 1⟩ (c (digitSum 2 ((scNaf a 5).drop (gTop (scNaf a 5) (scNaf b 8) + 1)) • P +
      digitSum 2 ((scNaf b 8).drop (gTop (scNaf a 5) (scNaf b 8) + 1)) • B)) := by
    rw [digitSum_drop_eq_zero 2 fun i hi => (htop i hi).1, digitSum_drop_eq_zero 2 fun i hi => (htop i hi).2,
      zero_smul, zero_smul, add_zero]
    exact (gIdentity_stands_zero hc).toProj
  have hend := foldl_range_reverse_induction
    (M := fun i (r : GProj) => r.Stands (c (digitSum 2 ((scNaf a 5).drop i) • P + digitSum 2 ((scNaf b 8).drop i) • B)))
    (fun i _ h => gDsmbStep_stands hc (hq.nafTable hc) hB (scNaf_isOddDigit a 3) (scNaf_isOddDigit b 6) i h) hstart
  rw [List.drop_zero, List.drop_zero, digitSum_scNaf ha (by decide), digitSum_scNaf hb (by decide), natCast_zsmul,
    natCast_zsmul] at hend
  exact hend.toExt

/-! ### MSM_RUN (R333) -/

/-- The sum of the multiples of the points `f` names, by an integer of each pair. -/
def pairSum (f : GExt → G) (v : Nat → Int) (l : List (Nat × GExt)) : G := (l.map fun m => v m.1 • f m.2).sum

omit hc in
@[simp] theorem pairSum_nil (f : GExt → G) (v : Nat → Int) : pairSum f v [] = 0 := rfl

omit hc in
@[simp] theorem pairSum_cons (f : GExt → G) (v : Nat → Int) (m : Nat × GExt) (l : List (Nat × GExt)) :
    pairSum f v (m :: l) = v m.1 • f m.2 + pairSum f v l := by rw [pairSum, List.map_cons, List.sum_cons, pairSum]

omit hc in
theorem pairSum_position (f : GExt → G) (i : Nat) (l : List (Nat × GExt)) :
    pairSum f (fun n => digitSum 2 ((scNaf n 5).drop i)) l =
      2 • pairSum f (fun n => digitSum 2 ((scNaf n 5).drop (i + 1))) l + pairSum f (fun n => (scNaf n 5).getD i 0) l := by
  induction l with
  | nil => rw [pairSum_nil, pairSum_nil, pairSum_nil, smul_zero, add_zero]
  | cons m l ih =>
    rw [pairSum_cons, pairSum_cons, pairSum_cons, ih, digitSum_drop]
    module

/-- A pair's recoding and table. -/
def gPrepare (m : Nat × GExt) : List Int × List GPNiels := (scNaf m.1 5, m.2.nafTable)

theorem gMsmApply_stands {f : GExt → G} {l : List (Nat × GExt)} (hl : ∀ m ∈ l, m.2.Stands (c (f m.2))) (i : Nat)
    {acc : GCompl} (h : acc.Stands (c R)) :
    ((l.map gPrepare).foldl (fun acc pr => gApplyPN pr.2 acc (pr.1.getD i 0)) acc).Stands
      (c (R + pairSum f (fun n => (scNaf n 5).getD i 0) l)) := by
  induction l generalizing acc R with
  | nil => rwa [pairSum_nil, add_zero]
  | cons m l ih =>
    obtain ⟨hm, hl⟩ := List.forall_mem_cons.1 hl
    rw [pairSum_cons, ← add_assoc]
    exact ih hl (gApplyPN_stands hc (hm.nafTable hc) h (scNaf_isOddDigit m.1 3 i))

/-- MSM_RUN's `sum of [s_k] Q_k` (R320). -/
theorem gMsm_stands {f : GExt → G} {l : List (Nat × GExt)} (hl : ∀ m ∈ l, m.2.Stands (c (f m.2)))
    (hlt : ∀ m ∈ l, m.1 < 2 ^ 255) : (gMsm l).Stands (c (pairSum f (fun n => n) l)) := by
  have hstart : GProj.Stands ⟨0, 1, 1⟩ (c (pairSum f (fun n => digitSum 2 ((scNaf n 5).drop 256)) l)) := by
    have h0 : ∀ n, digitSum 2 ((scNaf n 5).drop 256) = 0 := fun n =>
      digitSum_drop_eq_zero 2 fun i hi => scNaf_getD_of_le n 5 hi
    simp only [pairSum, h0, zero_smul, List.map_const', List.sum_replicate, smul_zero]
    exact (gIdentity_stands_zero hc).toProj
  have hend := foldl_range_reverse_induction
    (M := fun i (r : GProj) => r.Stands (c (pairSum f (fun n => digitSum 2 ((scNaf n 5).drop i)) l)))
    (f := gMsmStep (l.map gPrepare))
    (fun i r h => by
      rw [pairSum_position]
      exact (gMsmApply_stands hc hl i (dbl_stands hc h)).toProj) hstart
  have hall : pairSum f (fun n => digitSum 2 ((scNaf n 5).drop 0)) l = pairSum f (fun n => n) l := by
    refine congrArg List.sum (List.map_congr_left fun m hm => ?_)
    dsimp only
    rw [List.drop_zero, digitSum_scNaf (hlt m hm) (by decide)]
  rw [hall] at hend
  exact hend.toExt

/-- The sum as the statement accumulates it, pair by pair. -/
theorem foldl_affAdd_eq {f : GExt → G} {l : List (Nat × GExt)} (hl : ∀ m ∈ l, c (f m.2) = m.2.aff) (R : G) :
    l.foldl (fun P m => affAdd P (affMul m.2.aff m.1)) (c R) = c (R + pairSum f (fun n => n) l) := by
  induction l generalizing R with
  | nil => rw [pairSum_nil, add_zero]; rfl
  | cons m l ih =>
    obtain ⟨hm, hl⟩ := List.forall_mem_cons.1 hl
    rw [List.foldl_cons, ← hm, hc.affMul, ← hc.add, ih hl, pairSum_cons, natCast_zsmul, add_assoc]

end

/-! ### The machine's multipliers, on valid points -/

theorem smul_stands_affMul {e : Ext} (hb : e.Below 54) (hv : e.gf.Valid) {n : Nat} (hn : n < 2 ^ 255) :
    (smul e n).gf.Stands (affMul e.gf.aff n) := by
  obtain ⟨G, _, c, hc⟩ := exists_pointGroup
  obtain ⟨P, hP⟩ := hc.surj _ hv.stands.1
  obtain ⟨-, hgf⟩ := (Ext.is_iff ..).1 (smul_is (Ext.is_gf hb) hn)
  rw [hgf, ← hP, hc.affMul]
  exact GExt.smul_stands hc (hP ▸ hv.stands) hn

theorem dsmb_stands_affAdd {e : Ext} (hb : e.Below 54) (hv : e.gf.Valid) {m n : Nat} (hm : m < 2 ^ 255)
    (hn : n < 2 ^ 255) :
    (dsmb m e n).gf.Stands (affAdd (affMul e.gf.aff m) (affMul extBase.gf.aff n)) := by
  obtain ⟨G, _, c, hc⟩ := exists_pointGroup
  obtain ⟨P, hP⟩ := hc.surj _ hv.stands.1
  obtain ⟨B, hB⟩ := hc.surj _ baseTable_first.1
  obtain ⟨-, hgf⟩ := (Ext.is_iff ..).1 (dsmb_is m (Ext.is_gf hb) n)
  rw [hgf, ← hP, ← hB, hc.affMul, hc.affMul, ← hc.add]
  exact GExt.dsmb_stands hc (hP ▸ hv.stands) hB hm hn

theorem msmSum_stands_foldl {l : List MsmPair}
    (hl : ∀ m ∈ l, m.point.Below 54 ∧ m.scalar.toNat < 2 ^ 255 ∧ m.point.gf.Valid) :
    (msmSum l).gf.Stands (l.foldl (fun P m => affAdd P (affMul m.point.gf.aff m.scalar.toNat)) (0, 1)) := by
  obtain ⟨G, _, c, hc⟩ := exists_pointGroup
  choose! f hf using hc.surj
  obtain ⟨-, hgf⟩ := (Ext.is_iff ..).1 (msmSum_is fun m hm => (hl m hm).1)
  have hst : ∀ q ∈ l.map fun m => (m.scalar.toNat, m.point.gf), q.2.Stands (c (f q.2.aff)) := by
    refine List.forall_mem_map.2 fun m hm => ?_
    obtain ⟨-, -, hv⟩ := hl m hm
    rw [hf _ hv.stands.1]
    exact hv.stands
  have hlt : ∀ q ∈ l.map fun m => (m.scalar.toNat, m.point.gf), q.1 < 2 ^ 255 :=
    List.forall_mem_map.2 fun m hm => (hl m hm).2.1
  have hsum := foldl_affAdd_eq hc (f := fun e => f e.aff) (fun q hq => (hst q hq).aff_eq.symm) 0
  rw [hc.zero, zero_add, List.foldl_map] at hsum
  rw [hgf, hsum]
  exact gMsm_stands hc hst hlt

/-! ### The statements -/

/-- Settles O47: the results stand for the multiples, which are the repeated additions. -/
theorem groupMultiples : Obligations.GroupMultiples := by
  unfold Obligations.GroupMultiples
  refine ⟨fun s d a b e n hwf he hn hb hlt hv => ?_, fun s d a b c e m n hwf hm he hn hb hltm hltn hv => ?_,
    fun s d hwf hne hm => ?_⟩
  · have h := smul_stands_affMul hb hv hlt
    exact ⟨_, exec_ptSmul hwf he hn, h.valid, h.aff_eq⟩
  · have h := dsmb_stands_affAdd hb hv hltm hltn
    exact ⟨_, exec_ptDsmb hwf hm he hn, h.valid, h.aff_eq⟩
  · have h := msmSum_stands_foldl hm
    exact ⟨_, exec_msmRun hwf hne, h.valid, h.aff_eq⟩

/-- Settles O45: the multiples by 0 and 1 are the identity and the point. -/
theorem smulZeroOne : Obligations.SmulZeroOne := by
  unfold Obligations.SmulZeroOne
  intro s d a b e n hwf he hn hb hv
  refine ⟨_, exec_ptSmul hwf he hn, fun h0 => ?_, fun h1 => ?_⟩
  · obtain ⟨-, z, -, hz⟩ := smul_stands_affMul hb hv (n := n.toNat) (by omega)
    rw [hz, h0]
    exact ⟨zero_mul z, one_mul z⟩
  · rw [(smul_stands_affMul hb hv (by omega)).aff_eq, h1]
    exact zero_affAdd e.gf.aff

end Sys2Proof.Machine

/-! SUPPORT. The Elligator2 map (45_elligator.md R350 to R352). ELL2 picks between `dd` and `-dd - A` the one at which the
cubic of the Montgomery curve is a square; MTOE decompresses the bytes of `(u - 1)/(u + 1)`, and the points of the two
curves correspond, so what ELL2 answers always decompresses. -/
namespace Sys2Proof.Machine

/-! ### Squares of GF(p) -/

/-- Twice a value that is no square is a square: with `i` the root of -1, `(1 - i)²` is `-2 i`. -/
theorem exists_sq_eq_two_mul {a : GF} (h : ∀ r : GF, r ^ 2 ≠ a) : ∃ s : GF, s ^ 2 = 2 * a := by
  have := Fact.mk p_prime
  have hno : ¬(gfCheck a 1 = a ∨ gfCheck a 1 = -a) := fun hc => by
    obtain ⟨r, hr⟩ := (gfCheck_eq_or_neg_iff one_ne_zero).1 hc
    exact h r ((mul_one _).symm.trans hr)
  have hI := gfI_sq
  obtain hc | hc := gfCheck_eq_gfI_mul one_ne_zero hno <;> rw [gfCheck, one_mul] at hc
  · exact ⟨(1 - gfI) * gfRoot a 1, by linear_combination (1 - gfI) ^ 2 * hc + (gfI - 2) * a * hI⟩
  · exact ⟨(1 + gfI) * gfRoot a 1, by linear_combination (1 + gfI) ^ 2 * hc - (gfI + 2) * a * hI⟩

/-- The denominator of `dd` is never 0, since 2 is no square and -1 is one (R351). -/
theorem one_add_two_mul_sq_ne_zero (r : GF) : 1 + 2 * r ^ 2 ≠ 0 := fun h =>
  gf_not_square 2 (by decide +kernel) (2 * gfI * r) (by
    push_cast
    linear_combination 4 * r ^ 2 * gfI_sq - 2 * h)

/-- `fe_sqrt_ratio_i` with denominator 1 tests for a square (41_field.md R165). -/
theorem feSqrtRatio_one_fst_iff {x : Fe} {v : GF} (hx : x.Is v) :
    (feSqrtRatio x feOne).1 = true ↔ ∃ r : GF, r ^ 2 = v := by
  have := Fact.mk p_prime
  obtain ⟨hb, rfl⟩ := hx
  obtain ⟨hb1, h1⟩ := feOne_is
  rw [feSqrtRatio_fst_iff_square hb hb1 (h1 ▸ one_ne_zero), h1]
  simp only [mul_one]

/-! ### The Montgomery curve (R350) -/

/-- The right side of the curve equation `v² = u³ + A u² + u`. -/
def montCubic (u : GF) : GF := u * (u ^ 2 + 486662 * u + 1)

/-- A root of `-(A + 2)`, which scales the map of the Montgomery curve to the Edwards curve. -/
def montScale : Nat := 6853475219497561581579357271197624642482790079785650197046958215289687604742

theorem montScale_sq : (montScale : GF) ^ 2 = -486664 := by
  have h := (gf_natCast_eq_iff (montScale ^ 2 + 486664) 0).2 (by decide +kernel)
  push_cast at h
  exact eq_neg_of_add_eq_zero_left h

/-- `d` is `-(A - 2)/(A + 2)`. -/
theorem gfD_mul_121666 : gfD * 121666 = -121665 := by
  have h := (gf_natCast_eq_iff (feEdwardsD.fval * 121666 + 121665) 0).2 (by decide +kernel)
  push_cast at h
  exact eq_neg_of_add_eq_zero_left h

theorem gf_121666_ne_zero : (121666 : GF) ≠ 0 := fun h =>
  absurd ((gf_natCast_eq_iff 121666 0).1 (by exact_mod_cast h)) (by decide +kernel)

/-- At `u = -1` the cubic is `A - 2`, which is no square (R351). -/
theorem ne_neg_one_of_montCubic {u v : GF} (h : v ^ 2 = montCubic u) : u ≠ -1 := fun hu =>
  gf_not_square 486660 (by decide +kernel) v (by
    rw [h, hu, montCubic]
    push_cast
    ring)

/-- The Edwards point of a point of the Montgomery curve: `x = √(-(A + 2)) u/v`, here with `u/v = v/(u² + A u + 1)`, and
`y = (u - 1)/(u + 1)`. -/
theorem exists_onCurve_of_montCubic {u v : GF} (h : v ^ 2 = montCubic u) :
    ∃ x, OnCurve x ((u - 1) * gfInv (u + 1)) := by
  have := Fact.mk p_prime
  have hk : (u + 1) * gfInv (u + 1) = 1 := mul_gfInv fun h0 => ne_neg_one_of_montCubic h (eq_neg_of_add_eq_zero_left h0)
  have hden := gfD_mul_sq_add_one_ne_zero ((u - 1) * gfInv (u + 1))
  generalize gfInv (u + 1) = k at hk hden ⊢
  -- `u² + A u + 1` is `d (u - 1)² + (u + 1)²` up to a factor
  have hq : 121666 * (gfD * ((u - 1) * k) ^ 2 + 1) = (u ^ 2 + 486662 * u + 1) * k ^ 2 := by
    linear_combination (u - 1) ^ 2 * k ^ 2 * gfD_mul_121666 - 121666 * ((u + 1) * k + 1) * hk
  have hq0 : u ^ 2 + 486662 * u + 1 ≠ 0 := fun h0 => by
    rw [h0, zero_mul] at hq
    exact mul_ne_zero gf_121666_ne_zero hden hq
  have hj := mul_gfInv hq0
  generalize gfInv (u ^ 2 + 486662 * u + 1) = j at hj
  rw [montCubic] at h
  refine ⟨montScale * v * j, (onCurve_iff_sq_mul ..).2 (mul_left_cancel₀ gf_121666_ne_zero ?_)⟩
  have hc := montScale_sq
  generalize (montScale : GF) = c at hc ⊢
  calc 121666 * ((c * v * j) ^ 2 * (gfD * ((u - 1) * k) ^ 2 + 1))
      = c ^ 2 * v ^ 2 * j ^ 2 * (121666 * (gfD * ((u - 1) * k) ^ 2 + 1)) := by ring
    _ = -486664 * u * ((u ^ 2 + 486662 * u + 1) * j) ^ 2 * k ^ 2 := by rw [hq, hc, h]; ring
    _ = -486664 * u * k ^ 2 := by rw [hj]; ring
    _ = 121666 * (((u - 1) * k) ^ 2 - 1) := by linear_combination -121666 * ((u + 1) * k + 1) * hk

/-! ### ELL2 (R351) -/

theorem feMontgomeryA_is : feMontgomeryA.Is 486662 :=
  ⟨by decide, by rw [Fe.gf_of_fval (n := 486662) (by decide), Nat.cast_ofNat]⟩

theorem feMontgomeryANeg_is : feMontgomeryANeg.Is (-486662) := by
  have h := (gf_natCast_eq_iff (feMontgomeryANeg.fval + 486662) 0).2 (by decide)
  push_cast at h
  exact ⟨by decide, eq_neg_of_add_eq_zero_left h⟩

/-- The value `dd` of the map (R351). -/
def elligatorD (r : GF) : GF := -486662 * gfInv (1 + 2 * r ^ 2)

/-- The map answers `dd` where the cubic at `dd` is a square, and `-dd - A` where it is not. -/
theorem elligator2_is {x : Fe} {r : GF} (hx : x.Is r) :
    ((∃ s : GF, s ^ 2 = montCubic (elligatorD r)) ∧ (elligator2 x).Is (elligatorD r)) ∨
      ((∀ s : GF, s ^ 2 ≠ montCubic (elligatorD r)) ∧ (elligator2 x).Is (-elligatorD r - 486662)) := by
  simp only [elligator2, strictFe_eq]
  have hd : (feMul feMontgomeryANeg (feInvert (feAdd feOne (feSq2 x)))).Is (elligatorD r) :=
    feMul_is feMontgomeryANeg_is (feInv_is (feAdd_is feOne_is (feSq2_is hx)))
  generalize feMul feMontgomeryANeg (feInvert (feAdd feOne (feSq2 x))) = z at hd ⊢
  generalize elligatorD r = dd at hd ⊢
  have heps : (feMul z (feAdd (feAdd (feSq z) (feMul feMontgomeryA z)) feOne)).Is (montCubic dd) :=
    feMul_is hd (feAdd_is (feAdd_is (feSq_is hd) (feMul_is feMontgomeryA_is hd)) feOne_is)
  have hsq := feSqrtRatio_one_fst_iff heps
  generalize (feSqrtRatio (feMul z (feAdd (feAdd (feSq z) (feMul feMontgomeryA z)) feOne)) feOne).1 = sq at hsq ⊢
  cases sq with
  | true =>
    have h := feCneg_is (feAdd_is hd feZero_is) false
    rw [if_neg Bool.false_ne_true, add_zero] at h
    exact .inl ⟨hsq.1 rfl, h⟩
  | false =>
    have h := feCneg_is (feAdd_is hd feMontgomeryA_is) true
    rw [if_pos rfl, neg_add'] at h
    exact .inr ⟨fun s hs => Bool.false_ne_true (hsq.2 ⟨s, hs⟩), h⟩

/-- `-dd - A` is `2 r² dd`, and the cubic at it is `2 r²` times the one at `dd`. -/
theorem montCubic_neg_sub (r : GF) :
    montCubic (-elligatorD r - 486662) = 2 * r ^ 2 * montCubic (elligatorD r) := by
  have hk := mul_gfInv (one_add_two_mul_sq_ne_zero r)
  have hd : elligatorD r * (1 + 2 * r ^ 2) = -486662 := by
    rw [elligatorD]
    linear_combination -486662 * hk
  generalize elligatorD r = dd at hd ⊢
  rw [montCubic, montCubic]
  linear_combination (-(dd ^ 2 + 486662 * dd + 1)) * hd

/-- The map answers the `u` of a point of the Montgomery curve, never of its twist (R351). -/
theorem elligator2_montCubic {x : Fe} (hx : x.Below 54) : ∃ v : GF, v ^ 2 = montCubic (elligator2 x).gf := by
  obtain ⟨hv, -, hu⟩ | ⟨hno, -, hu⟩ := elligator2_is (Fe.is_self hx)
  · rwa [hu]
  · obtain ⟨s, hs⟩ := exists_sq_eq_two_mul hno
    refine ⟨x.gf * s, ?_⟩
    rw [hu, montCubic_neg_sub]
    linear_combination x.gf ^ 2 * hs

/-- Settles O48: the test for a square root selects `dd` or `-dd - A`. -/
theorem elligator2Map : Obligations.Elligator2Map := by
  unfold Obligations.Elligator2Map
  intro s d a x dd eps hwf hx hbx hdd heps
  rw [← elligatorD] at hdd
  rw [← montCubic] at heps
  rw [heps, hdd]
  refine ⟨elligator2 x, elligator2_below53 x, exec_of_withF hwf rfl hx, ?_⟩
  obtain ⟨⟨r, hr⟩, -, hu⟩ | ⟨hno, -, hu⟩ := elligator2_is (Fe.is_self hbx)
  · exact ⟨fun _ => hu, fun hno => absurd hr (hno r)⟩
  · exact ⟨fun ⟨r, hr⟩ => absurd hr (hno r), fun _ => hu⟩

/-! ### MTOE (R352) -/

/-- The bytes MTOE decompresses: the canonical encoding of `y` with the sign bit flipped in. -/
def signedBytes (y : Fe) (sign : Bool) : List Byte :=
  (feToBytes y).set 31 ((feToBytes y).getD 31 0 ^^^ BitVec.ofNat 8 sign.toNat <<< 7)

/-- Flipping the sign bit in sets it where it is clear. -/
theorem xor_sign_eq_or {b : Byte} (hb : b.toNat < 2 ^ 7) (sign : Bool) :
    b ^^^ BitVec.ofNat 8 sign.toNat <<< 7 = b ||| BitVec.ofNat 8 sign.toNat <<< 7 := by
  have h7 : b.getLsbD 7 = false := Nat.testBit_lt_two_pow hb
  refine BitVec.eq_of_getLsbD_eq fun i hi => ?_
  obtain rfl | hne := eq_or_ne i 7
  · rw [BitVec.getLsbD_xor, BitVec.getLsbD_or, h7, Bool.false_xor, Bool.false_or]
  · have h0 : (BitVec.ofNat 8 sign.toNat <<< 7).getLsbD i = false := by
      rw [BitVec.getLsbD_shiftLeft, decide_eq_true (by omega : i < 7)]
      simp
    rw [BitVec.getLsbD_xor, BitVec.getLsbD_or, h0, Bool.xor_false, Bool.or_false]

theorem le_signedBytes {y : Fe} (hy : y.Below 54) (sign : Bool) :
    le (signedBytes y sign) = y.fval + sign.toNat * 2 ^ 255 := by
  have hlen := feToBytes_length y
  have hle := le_feToBytes hy
  have hlt := y.fval_lt.trans p_lt
  have hlast := getD_31_toNat hlen
  have hb : ((feToBytes y).getD 31 0).toNat < 2 ^ 7 := by omega
  rw [signedBytes, le_set_31 hlen, xor_sign_eq_or hb, or_sign_toNat hb, hlast, hle]
  omega

theorem yOf_signedBytes {y : Fe} {v : GF} (hy : y.Is v) (sign : Bool) : yOf (signedBytes y sign) = v := by
  obtain ⟨hb, rfl⟩ := hy
  rw [yOf, le_signedBytes hb, Nat.add_mul_mod_self_right, Nat.mod_eq_of_lt (y.fval_lt.trans p_lt), Fe.gf]

theorem signOf_signedBytes {y : Fe} (hy : y.Below 54) (sign : Bool) : signOf (signedBytes y sign) = sign := by
  have hlen : (signedBytes y sign).length = 32 := by rw [signedBytes, List.length_set, feToBytes_length]
  have hlt := y.fval_lt.trans p_lt
  rw [signOf_eq_decide hlen, le_signedBytes hy]
  cases sign with
  | false => exact decide_eq_false (by rw [Bool.toNat_false]; omega)
  | true => exact decide_eq_true (by rw [Bool.toNat_true]; omega)

theorem feMinusOne_is : feMinusOne.Is (-1) :=
  ⟨by decide, (Fe.gf_of_fval (by decide)).trans gf_natCast_p_sub_one⟩

section
variable {f : Fe} {u : GF} (hf : f.Is u) (reject sign : Bool)
include hf

theorem montToEdwards_of_neg_one (hu : u = -1) : montToEdwards reject f sign = none := by
  rw [montToEdwards, if_pos ((feCtEq_iff hf feMinusOne_is).2 hu)]

/-- For `u` other than -1, MTOE is the decompression of `(u - 1)/(u + 1)` and the sign. -/
theorem montToEdwards_of_ne (hu : u ≠ -1) : ∃ bs, yOf bs = (u - 1) * gfInv (u + 1) ∧ signOf bs = sign ∧
    montToEdwards reject f sign = decompress reject bs := by
  have hy := feMul_is (feSub_is hf feOne_is) (feInv_is (feAdd_is hf feOne_is))
  refine ⟨signedBytes _ sign, yOf_signedBytes hy sign, signOf_signedBytes hy.1 sign, ?_⟩
  rw [montToEdwards, if_neg (mt (feCtEq_iff hf feMinusOne_is).1 hu), strictFe_eq]
  rfl

end

section
variable {s : State} {d a : RegNo} {imm : Imm} {f : Fe}

/-- A well-formed command whose writes cannot be made takes the fault (40_system_choice.md R130). -/
theorem exec_of_error {i : Instr} {k : FaultCode} (hwf : i.WellFormed s.params) (hk : writes i s = .error k) :
    exec i s = .next (s.takeFault k (encode i)) := by
  rw [exec_eq, hk]
  exact command_of_error ((check_eq_none_iff_wellFormed s.params i).2 hwf)

theorem exec_mtoe_some {e : Ext} (hwf : (Instr.mtoe d a imm).WellFormed s.params) (hf : s.readF a = some f)
    (he : montToEdwards s.params.rejectNegZero f (bitOfImm imm) = some e) :
    exec (.mtoe d a imm) s = .next (s.writeP d (.ext e)).retire := by
  refine exec_of_writes (ws := [.p d (some (.ext e))]) hwf ?_
  rw [writes, bind_of_ok (srcF_of_readF hf), he]
  rfl

theorem exec_mtoe_none (hwf : (Instr.mtoe d a imm).WellFormed s.params) (hf : s.readF a = some f)
    (hn : montToEdwards s.params.rejectNegZero f (bitOfImm imm) = none) :
    exec (.mtoe d a imm) s = .next (s.takeFault .elligator (encode (.mtoe d a imm))) := by
  refine exec_of_error hwf ?_
  rw [writes, bind_of_ok (srcF_of_readF hf), hn]
  rfl

end

/-- The sign bit of MTOE, as a number, is its immediate (30_encoding.md R102). -/
theorem bitOfImm_toNat {imm : Imm} (h : imm.toNat ≤ 1) : (bitOfImm imm).toNat = imm.toNat := by
  rw [bitOfImm, BitVec.getLsbD, Nat.testBit_zero, toNat_decide_odd, Nat.mod_eq_of_lt (by omega)]

/-- Settles O49: away from `u = -1`, the outcomes are those of decompression. -/
theorem montgomeryToEdwards : Obligations.MontgomeryToEdwards := by
  unfold Obligations.MontgomeryToEdwards
  intro s d a imm f u y hwf hf hbf hu hy
  have hIs : f.Is u := ⟨hbf, hu.symm⟩
  obtain ⟨-, -, himm⟩ := of_decide_eq_true hwf
  have hbit : bitOfImm imm = true ↔ imm = 1 := by rw [bitOfImm_eq_decide himm, decide_eq_true_iff]
  refine ⟨fun x hne hc hs hr => ?_, fun h => exec_mtoe_none hwf hf ?_⟩
  · obtain ⟨bs, hybs, hsign, heq⟩ := montToEdwards_of_ne hIs s.params.rejectNegZero (bitOfImm imm) hne
    obtain rfl : y = yOf bs := hy.trans hybs.symm
    have hhas : HasSign (signOf bs) x := by rwa [HasSign, hsign, bitOfImm_toNat himm]
    have hrej : ¬RejectsZero s.params.rejectNegZero bs x := by rwa [RejectsZero, hsign, hbit]
    obtain ⟨e, he, heIs⟩ := decompress_of_onCurve hc hhas hrej
    obtain ⟨hb, hg⟩ := (Ext.is_iff ..).1 heIs
    exact ⟨e, hb, hg, exec_mtoe_some hwf hf (heq.trans he)⟩
  · obtain hu1 | hne := eq_or_ne u (-1)
    · exact montToEdwards_of_neg_one hIs _ _ hu1
    · obtain ⟨bs, hybs, hsign, heq⟩ := montToEdwards_of_ne hIs s.params.rejectNegZero (bitOfImm imm) hne
      obtain rfl : y = yOf bs := hy.trans hybs.symm
      refine heq.trans (decompress_eq_none ((h.resolve_left hne).imp_right fun ⟨h0, h1, hr⟩ => ?_))
      exact ⟨h0, rfl, hsign.trans (hbit.2 h1), hr⟩

/-! ### ELL2, then MTOE (R351, R352) -/

/-- Where the curve has a point of this `y`, it has one with even `x`. -/
theorem OnCurve.exists_even {x y : GF} (h : OnCurve x y) : ∃ x', OnCurve x' y ∧ x'.val % 2 = 0 := by
  obtain h0 | h1 := Nat.mod_two_eq_zero_or_one x.val
  · exact ⟨x, h, h0⟩
  · have hx : x ≠ 0 := fun hx => by
      rw [hx, ZMod.val_zero] at h1
      cases h1
    exact ⟨-x, (onCurve_neg_iff ..).2 h, by rw [gf_val_neg hx, h1]⟩

/-- Settles O50: what ELL2 answers is the `u` of a point of the Montgomery curve, whose Edwards point MTOE finds. -/
theorem elligatorChain : Obligations.ElligatorChain := by
  unfold Obligations.ElligatorChain
  intro s t d a q x hs hfault hwf hwf' hx ht
  obtain ⟨hd, -⟩ := of_decide_eq_true hwf
  obtain ⟨hq, -, -⟩ := of_decide_eq_true hwf'
  obtain ⟨hlenF, -, hlenP, -, -⟩ := hs.files
  have hexec : exec (.ell2 d a) s = .next (s.writeF d (elligator2 x)).retire := exec_of_withF hwf rfl hx
  obtain rfl : t = (s.writeF d (elligator2 x)).retire := Host.Outcome.next.inj (ht.symm.trans hexec)
  have hread : (s.writeF d (elligator2 x)).retire.readF d = some (elligator2 x) :=
    State.readF_writeF_self s d _ (hlenF ▸ hd)
  obtain ⟨v, hv⟩ := elligator2_montCubic ((hs.limbs.readF hx).mono (by decide : 53 ≤ 54))
  obtain ⟨x₀, hx₀⟩ := exists_onCurve_of_montCubic hv
  obtain ⟨x', hc, heven⟩ := hx₀.exists_even
  have hb := (elligator2_below53 x).mono (by decide : 53 ≤ 54)
  obtain ⟨hok, -⟩ :=
    montgomeryToEdwards (s.writeF d (elligator2 x)).retire q d 0 (elligator2 x) _ _ hwf' hread hb rfl rfl
  obtain ⟨e, -, hg, hmtoe⟩ := hok x' (ne_neg_one_of_montCubic hv) hc (.inr heven) fun ⟨_, h01, _⟩ => by cases h01
  have := Fact.mk p_prime
  have hst : e.gf.Stands (x', ((elligator2 x).gf - 1) * gfInv ((elligator2 x).gf + 1)) := by
    rw [hg]
    exact ⟨hc, 1, one_ne_zero, by simp only [mul_one]⟩
  exact ⟨_, e, hmtoe, hfault, State.readP_writeP_self _ q _ (hlenP ▸ hq), hst.valid, by rw [hg]⟩

end Sys2Proof.Machine

/-! SUPPORT. The faults a command takes, in the order of 60_exceptions.md R408: UNWRITTEN for an EMPTY source, then TYPE
for a tag it does not accept, then the faults of its own; with it fault entry and the faulted block (R410, R411). -/
namespace Sys2Proof.Machine

/-! ### Which fault a command takes -/

/-- No two causes share a code (60_exceptions.md R401). -/
theorem code_injective : Function.Injective FaultCode.code := by
  intro k k'
  cases k <;> cases k' <;> decide

/-- A well-formed command takes a fault exactly when its writes cannot be made for it: a command that retires is told
from one that faults by `cmdidx` (10_state.md R44, R50). -/
theorem exec_eq_takeFault_iff {i : Instr} {s : State} {k : FaultCode} (hwf : i.WellFormed s.params) :
    exec i s = .next (s.takeFault k (encode i)) ↔ writes i s = .error k := by
  refine ⟨fun h => ?_, exec_of_error hwf⟩
  cases hw : writes i s with
  | error k' =>
    have ht := Host.Outcome.next.inj ((exec_of_error hwf hw).symm.trans h)
    exact congrArg _ (code_injective (congrArg State.faultcode ht))
  | ok ws =>
    have ht := Host.Outcome.next.inj ((exec_of_writes hwf hw).symm.trans h)
    have hidx : s.cmdidx + 1 = s.cmdidx := by simpa using congrArg State.cmdidx ht
    exact absurd hidx (by bv_omega)

/-! ### Checks of tags (R405) -/

/-- A check of tags answers a value where they are accepted, and TYPE where they are not. -/
def ChecksTag {α : Type} (accepted : Bool) (x : Except FaultCode α) : Prop :=
  if accepted then ∃ v, x = .ok v else x = .error .wrongType

theorem asExt_checksTag (q : Point) : ChecksTag ([Tag.ext].contains q.tag) q.asExt := by
  cases q with
  | ext e => exact ⟨e, rfl⟩
  | _ => rfl

theorem asProj_checksTag (q : Point) : ChecksTag ([Tag.proj].contains q.tag) q.asProj := by
  cases q with
  | proj e => exact ⟨e, rfl⟩
  | _ => rfl

theorem asCompl_checksTag (q : Point) : ChecksTag ([Tag.compl].contains q.tag) q.asCompl := by
  cases q with
  | compl e => exact ⟨e, rfl⟩
  | _ => rfl

theorem addTo_checksTag (q : Point) (e : Ext) : ChecksTag ([Tag.pniels, .aniels].contains q.tag) (q.addTo e) := by
  cases q with
  | pniels n => exact ⟨addPN e n, rfl⟩
  | aniels n => exact ⟨addAN e n, rfl⟩
  | _ => rfl

theorem subFrom_checksTag (q : Point) (e : Ext) : ChecksTag ([Tag.pniels, .aniels].contains q.tag) (q.subFrom e) := by
  cases q with
  | pniels n => exact ⟨subPN e n, rfl⟩
  | aniels n => exact ⟨subAN e n, rfl⟩
  | _ => rfl

theorem negate_checksTag (q : Point) : ChecksTag ([Tag.ext, .pniels, .aniels].contains q.tag) q.negate := by
  cases q with
  | ext e => exact ⟨.ext (negExt e), rfl⟩
  | pniels n => exact ⟨.pniels (negPN n), rfl⟩
  | aniels n => exact ⟨.aniels (negAN n), rfl⟩
  | _ => rfl

/-- A conditional negation accepts what a negation accepts (R286). -/
theorem condNegate_checksTag (q : Point) (k : Bool) :
    ChecksTag ([Tag.ext, .pniels, .aniels].contains q.tag) (q.condNegate k) := by
  cases q with
  | ext | pniels | aniels => exact ⟨_, condNegate_of_negate rfl k⟩
  | proj | compl => rfl

section
variable {s : State} {n m : RegNo} {q r : Point}

theorem hasTag_of_readP (hq : s.readP n = some q) (ts : List Tag) : s.hasTag n ts = ts.contains q.tag := by
  rw [State.hasTag, hq]

theorem checksTag_of_readP {α : Type} {x : Except FaultCode α} {ts : List Tag} (hq : s.readP n = some q)
    (hx : ChecksTag (ts.contains q.tag) x) : ChecksTag (s.hasTag n ts) x :=
  hasTag_of_readP hq ts ▸ hx

theorem sameTag_iff (hq : s.readP n = some q) (hr : s.readP m = some r) :
    s.sameTag n m = true ↔ q.tag = r.tag ∧ q.tag ∈ [Tag.ext, .pniels, .aniels] := by
  simp only [State.sameTag, hasTag_of_readP hq, hasTag_of_readP hr, List.any_eq_true, Bool.and_eq_true,
    List.contains_iff_mem, List.mem_singleton]
  exact ⟨fun ⟨t, ht, hqt, hrt⟩ => ⟨hqt.trans hrt.symm, hqt ▸ ht⟩, fun ⟨h, ht⟩ => ⟨q.tag, ht, rfl, h.symm⟩⟩

theorem sameTag_comm (s : State) (n m : RegNo) : s.sameTag n m = s.sameTag m n := by
  simp only [State.sameTag, Bool.and_comm]

theorem select_checksTag (hq : s.readP n = some q) (hr : s.readP m = some r) (k : Bool) :
    ChecksTag (s.sameTag n m) (q.select r k) := by
  rw [select_eq]
  unfold ChecksTag
  split
  · next h => exact ⟨_, if_pos ((sameTag_iff hq hr).1 h)⟩
  · next h => exact if_neg (mt (sameTag_iff hq hr).2 h)

end

/-! ### The order of the faults (R408) -/

/-- The fault of `x`, where `empty` says whether a source is EMPTY and `tags` whether the tags are accepted: UNWRITTEN
first, then TYPE, then neither of the two. -/
def FaultOrder {α : Type} (empty tags : Bool) (x : Except FaultCode α) : Prop :=
  if empty then x = .error .unwritten
  else if tags then x ≠ .error .unwritten ∧ x ≠ .error .wrongType
  else x = .error .wrongType

namespace FaultOrder
variable {α β : Type} {s : State} {rs : List RegRef} {tags : Bool}

theorem unwritten_iff {empty : Bool} {x : Except FaultCode α} (h : FaultOrder empty tags x) :
    x = .error .unwritten ↔ empty = true := by
  cases empty with
  | true => exact iff_of_true h rfl
  | false =>
    cases tags with
    | true => exact iff_of_false h.1 Bool.false_ne_true
    | false => exact iff_of_false (fun hx => by cases hx.symm.trans h) Bool.false_ne_true

theorem wrongType_iff {x : Except FaultCode α} (h : FaultOrder false tags x) :
    x = .error .wrongType ↔ tags = false := by
  cases tags with
  | true => exact iff_of_false h.2 Bool.true_eq_false_eq_False
  | false => exact iff_of_true h rfl

theorem ok (v : α) : FaultOrder false true (.ok v) := ⟨nofun, nofun⟩

/-- A source is read before the rest of the command runs on its content. -/
theorem source {o : Option α} {r : RegRef} {f : α → Except FaultCode β} (hr : s.isEmpty r = o.isNone)
    (hf : ∀ v, o = some v → FaultOrder (rs.any s.isEmpty) tags (f v)) :
    FaultOrder ((r :: rs).any s.isEmpty) tags (Machine.source o >>= f) := by
  rw [List.any_cons, hr]
  cases o with
  | none => rfl
  | some v => exact hf v rfl

/-- A check of tags comes after the sources, and before the rest of the command. -/
theorem tag {accepted : Bool} {x : Except FaultCode α} {f : α → Except FaultCode β} (hx : ChecksTag accepted x)
    (hf : ∀ v, FaultOrder false tags (f v)) : FaultOrder false (accepted && tags) (x >>= f) := by
  cases accepted with
  | true =>
    obtain ⟨v, rfl⟩ := hx
    exact hf v
  | false =>
    obtain rfl : x = .error .wrongType := hx
    rfl

/-- The last check of tags. -/
theorem lastTag {accepted : Bool} {x : Except FaultCode α} {f : α → Except FaultCode β} (hx : ChecksTag accepted x)
    (hf : ∀ v, FaultOrder false true (f v)) : FaultOrder false accepted (x >>= f) :=
  Bool.and_true accepted ▸ tag hx hf

/-! The shapes of commands. -/

section
variable (s : State) (a b : RegNo)

theorem withF (k : Fe → List Write) : FaultOrder ([RegRef.f a].any s.isEmpty) true (withF s a k) :=
  source rfl fun x _ => ok (k x)

theorem withFF (k : Fe → Fe → List Write) : FaultOrder ([RegRef.f a, .f b].any s.isEmpty) true (withFF s a b k) :=
  source rfl fun x _ => source rfl fun y _ => ok (k x y)

theorem withS (k : Scalar → List Write) : FaultOrder ([RegRef.s a].any s.isEmpty) true (withS s a k) :=
  source rfl fun x _ => ok (k x)

theorem withSS (k : Scalar → Scalar → List Write) :
    FaultOrder ([RegRef.s a, .s b].any s.isEmpty) true (withSS s a b k) :=
  source rfl fun x _ => source rfl fun y _ => ok (k x y)

theorem withCC (k : Bool → Bool → List Write) : FaultOrder ([RegRef.c a, .c b].any s.isEmpty) true (withCC s a b k) :=
  source rfl fun x _ => source rfl fun y _ => ok (k x y)

theorem withExt (k : Ext → List Write) : FaultOrder ([RegRef.p a].any s.isEmpty) (s.hasTag a [.ext]) (withExt s a k) :=
  source rfl fun q hq => lastTag (checksTag_of_readP hq (asExt_checksTag q)) fun e => ok (k e)

theorem withProj (k : Proj → List Write) :
    FaultOrder ([RegRef.p a].any s.isEmpty) (s.hasTag a [.proj]) (withProj s a k) :=
  source rfl fun q hq => lastTag (checksTag_of_readP hq (asProj_checksTag q)) fun e => ok (k e)

theorem withCompl (k : Compl → List Write) :
    FaultOrder ([RegRef.p a].any s.isEmpty) (s.hasTag a [.compl]) (withCompl s a k) :=
  source rfl fun q hq => lastTag (checksTag_of_readP hq (asCompl_checksTag q)) fun e => ok (k e)

/-- Two point sources, the first an `EXT` one, the second by its own check. -/
theorem twoPoints {ts : List Tag} {check : Point → Ext → Except FaultCode α}
    (hc : ∀ r e, ChecksTag (ts.contains (Point.tag r)) (check r e)) (k : Ext → α → List Write) :
    FaultOrder ([RegRef.p a, .p b].any s.isEmpty) (s.hasTag a [.ext] && s.hasTag b ts) (do
      let q ← s.srcP a
      let r ← s.srcP b
      let e ← q.asExt
      let t ← check r e
      return k e t) :=
  source rfl fun q hq => source rfl fun r hr =>
    tag (checksTag_of_readP hq (asExt_checksTag q)) fun e => lastTag (checksTag_of_readP hr (hc r e)) fun t => ok (k e t)

end

end FaultOrder

/-- Every command faults in the order of 60_exceptions.md R408. -/
theorem writes_faultOrder (i : Instr) (s : State) :
    FaultOrder ((sources i).any s.isEmpty) (tagsAccepted s i) (writes i s) := by
  cases i with
  | nop | chSet | feLd | feConst | scLd | scLdw | ptIdent | ptBase | ptDecomp | msmClr => exact .ok _
  | chNot | dgSt | ptMov => exact .source rfl fun x _ => .ok _
  | chAnd | chOr | chXor => exact .withCC ..
  | feSt | feMov | feNeg | feSq | feSq2 | fePow2k | feInv | fePowp58 | fePow22501 | feRed | feIsneg | feIszero | ell2 =>
    exact .withF ..
  | feAdd | feSub | feMul | feSqrtri | feEq => exact .withFF ..
  | feCsel | feCassign => exact .source rfl fun x _ => .source rfl fun y _ => .source rfl fun k _ => .ok _
  | feCneg => exact .source rfl fun k _ => .source rfl fun x _ => .ok _
  | scSt | scMov | scNeg | scRed | scIscanon | scTomont | scFrommont | scRadix16 | scRadix2w | scNaf => exact .withS ..
  | scAdd | scSub | scMul | scMmul => exact .withSS ..
  | ptComp | ptE2p | ptE2pn | ptE2an | ptIssmall | ptIsident | ptMulcof | ptEdbl => exact .withExt ..
  | ptP2e | ptDbl => exact .withProj ..
  | ptC2p | ptC2e => exact .withCompl ..
  | ptEq | ptEadd | ptEsub => exact .twoPoints s _ _ (fun r _ => asExt_checksTag r) _
  | ptAdd d a b => exact .twoPoints s a b addTo_checksTag fun _ t => [.p d (some (.compl t))]
  | ptSub d a b => exact .twoPoints s a b subFrom_checksTag fun _ t => [.p d (some (.compl t))]
  | ptNeg d a =>
    exact .source rfl fun q hq => .lastTag (checksTag_of_readP hq (negate_checksTag q)) fun r => .ok _
  | ptCsel d a b c =>
    exact .source rfl fun q hq => .source rfl fun r hr => .source rfl fun k _ =>
      .lastTag (select_checksTag hq hr k) fun t => .ok _
  | ptCneg d c =>
    exact .source rfl fun k _ => .source rfl fun q hq =>
      .lastTag (checksTag_of_readP hq (condNegate_checksTag q k)) fun r => .ok _
  | ptCassign d a c =>
    exact .source rfl fun r hr => .source rfl fun k _ => .source rfl fun q hq =>
      .lastTag (sameTag_comm s d a ▸ select_checksTag hq hr k : ChecksTag (s.sameTag a d) _) fun t => .ok _
  | ptSmul d a b =>
    exact .source rfl fun q hq => .source rfl fun n _ =>
      .lastTag (checksTag_of_readP hq (asExt_checksTag q)) fun e => .ok _
  | ptDsmb d a b c =>
    exact .source rfl fun m _ => .source rfl fun q hq => .source rfl fun n _ =>
      .lastTag (checksTag_of_readP hq (asExt_checksTag q)) fun e => .ok _
  | msmPush a b =>
    refine .source rfl fun n _ => .source rfl fun q hq =>
      .lastTag (checksTag_of_readP hq (asExt_checksTag q)) fun e => ?_
    split
    · exact ⟨nofun, nofun⟩
    · exact .ok _
  | msmRun d =>
    show FaultOrder false true (if _ then _ else _)
    split
    · exact ⟨nofun, nofun⟩
    · exact .ok _
  | mtoe d a imm =>
    refine .source rfl fun u _ => ?_
    cases montToEdwards s.params.rejectNegZero u (bitOfImm imm) with
    | none => exact ⟨nofun, nofun⟩
    | some e => exact .ok _

/-! ### The statements -/

/-- Settles O10. -/
theorem unwrittenIffEmptySource : Obligations.UnwrittenIffEmptySource := by
  unfold Obligations.UnwrittenIffEmptySource
  intro i s hwf
  rw [exec_eq_takeFault_iff hwf, (writes_faultOrder i s).unwritten_iff, List.any_eq_true]

/-- Settles O11. -/
theorem typeIffTagRefused : Obligations.TypeIffTagRefused := by
  unfold Obligations.TypeIffTagRefused
  intro i s hwf hheld
  have hany : (sources i).any s.isEmpty = false :=
    List.any_eq_false.2 fun r hr => Bool.eq_false_iff.1 (hheld r hr)
  have hord := writes_faultOrder i s
  rw [hany] at hord
  rw [exec_eq_takeFault_iff hwf, hord.wrongType_iff]

/-- Settles O12: UNWRITTEN and TYPE by the statements above, then the length of the list. -/
theorem listFaults : Obligations.ListFaults := by
  unfold Obligations.ListFaults
  refine ⟨fun s a b hwf hlen => ⟨fun h => ?_, fun n q hn hq ht => ?_, fun n q hn hq ht => ?_⟩, fun s d hwf hlen => ?_⟩
  · refine (unwrittenIffEmptySource _ s hwf).2 ?_
    obtain hn | hq := h
    · exact ⟨.s a, by simp [sources], by simp [State.isEmpty, hn]⟩
    · exact ⟨.p b, by simp [sources], by simp [State.isEmpty, hq]⟩
  · refine (typeIffTagRefused _ s hwf ?_).2 ?_
    · simp [sources, State.isEmpty, hn, hq]
    · rw [tagsAccepted, hasTag_of_readP hq]
      simpa using ht
  · obtain ⟨e, rfl⟩ : ∃ e, q = .ext e := by
      cases q with
      | ext e => exact ⟨e, rfl⟩
      | _ => cases ht
    refine exec_of_error hwf ?_
    rw [writes, bind_of_ok (srcS_of_readS hn), bind_of_ok (srcP_of_readP hq), bind_of_ok (asExt_ext e),
      if_pos hlen.ge]
  · exact exec_of_error hwf (if_pos hlen)

/-- Settles O8: of the outcomes of a write to CMD (O7), one leaves the fault bit 0 and the other writes the record. -/
theorem faultEntry : Obligations.FaultEntry := by
  unfold Obligations.FaultEntry
  intro s t w es hb hr hf hstep hfault
  obtain ⟨t', ht', ⟨-, -, -, hok, -⟩ | ⟨k, hk⟩⟩ := (cmdWrite s _ w es hb hr rfl).2 hf
  · obtain rfl := Host.Outcome.next.inj (hstep.symm.trans ht')
    exact absurd (hok.symm.trans hfault) Bool.false_ne_true
  · obtain rfl := Host.Outcome.next.inj (hstep.symm.trans ht')
    obtain ⟨hlo, hhi⟩ := code_range k
    exact ⟨k.code, hlo, hhi, hk⟩

/-! ### The faulted block (R411) -/

/-- A write but to CMD resets the block through CTRL, or touches no more than ORAM (10_state.md R43, R53). -/
theorem hostWrite_cases (s : State) (o : Nat) (w : Word) :
    (o = ctrlOffset ∧ w.getLsbD 0 = true ∧ hostWrite s o w = s.resetBlock) ∨
      ∃ m, hostWrite s o w = { s with oram := m } := by
  unfold hostWrite
  split
  · next ho =>
    split
    · next hw => exact .inl ⟨ho, hw, rfl⟩
    · exact .inr ⟨s.oram, rfl⟩
  · split
    · exact .inr ⟨_, rfl⟩
    · exact .inr ⟨s.oram, rfl⟩

/-- The fault record, `cmdidx`, the register files and the pair list are those of `s`. -/
def State.SameBlock (s t : State) : Prop :=
  t.fault = s.fault ∧ t.faultcode = s.faultcode ∧ t.faultcmd = s.faultcmd ∧ t.faultidx = s.faultidx ∧
    t.cmdidx = s.cmdidx ∧ t.F = s.F ∧ t.S = s.S ∧ t.P = s.P ∧ t.C = s.C ∧ t.DG = s.DG ∧ t.msm = s.msm

/-- A change of ORAM and the host's side alone. -/
theorem State.sameBlock (s : State) (m : Memory) (r : Bool) (es : List BusEvent) (log : List Word) :
    s.SameBlock { s with oram := m, resetIn := r, bus := es, readLog := log } :=
  ⟨rfl, rfl, rfl, rfl, rfl, rfl, rfl, rfl, rfl, rfl, rfl⟩

/-- A faulted block keeps its record and its registers at every step but a reset (60_exceptions.md R411). -/
theorem step_of_fault {s t : State} (hf : s.fault = true) (h : step s = .next t) :
    s.SameBlock t ∨
      (∃ w es, s.bus = .write ctrlOffset w :: es ∧ w.getLsbD 0 = true ∧ t = { s with bus := es }.resetBlock) ∨
      ∃ es, s.bus = .resetInput true :: es ∧ t = { { s with bus := es }.resetBlock with resetIn := true } := by
  obtain ⟨-, rfl⟩ | ⟨e, es, hb, he⟩ := step_cases h
  · exact .inl (t.sameBlock ..)
  · obtain ⟨o, rfl, -, -, -, rfl⟩ | ⟨w, rfl, -, ha⟩ | ⟨o, w, rfl, -, -, -, -, rfl⟩ | ⟨a, rfl, rfl⟩ :=
      busEvent_cases he
    · exact .inl (s.sameBlock ..)
    · obtain rfl := Host.Outcome.next.inj ((acceptWord_of_fault (s := { s with bus := es }) w hf).symm.trans ha)
      exact .inl (s.sameBlock ..)
    · obtain ⟨rfl, hw, hreset⟩ | ⟨m, hm⟩ := hostWrite_cases { s with bus := es } o w
      · exact .inr (.inl ⟨w, es, hb, hw, hreset⟩)
      · rw [hm]
        exact .inl (s.sameBlock ..)
    · cases a with
      | false => exact .inl (s.sameBlock ..)
      | true => exact .inr (.inr ⟨es, hb, rfl⟩)

/-- Settles O9: `step_of_fault` with the four accesses of the host. -/
theorem faultIsSticky : Obligations.FaultIsSticky := by
  unfold Obligations.FaultIsSticky
  intro s hf
  refine ⟨fun e es hb hr => ⟨?_, ?_, ?_, ?_⟩, fun t h => ?_⟩
  · rintro w rfl
    exact (step_cmd hb hr).trans (acceptWord_of_fault w hf)
  · rintro o rfl ho hw
    exact step_read hr hb ho hw
  · rintro j w rfl hj
    exact step_write_oram hr hb hj
  · rintro w rfl hw
    rw [softReset.1 s w es hb hr, if_pos hw]
  · exact (step_of_fault hf h).imp_left fun ⟨hfault, hrest⟩ => ⟨hfault.trans hf, hrest⟩

end Sys2Proof.Machine

/-! SUPPORT. What the fault of a command depends on (70_reset_and_hazards.md R445): the shapes of two states agree on
which sources are EMPTY, on tags and on the length of the pair list, and every command but MTOE faults by these alone. -/
namespace Sys2Proof.Machine

/-! ### Computations that fault alike -/

/-- Two computations take the same fault, or neither takes one. -/
abbrev FaultAlike {α β : Type} (x : Except FaultCode α) (y : Except FaultCode β) : Prop := Agree (fun _ _ => True) x y

theorem Agree.error_iff {α β : Type} {R : α → β → Prop} {x : Except FaultCode α} {y : Except FaultCode β}
    (h : Agree R x y) (k : FaultCode) : x = .error k ↔ y = .error k := by
  cases h with
  | ok => exact iff_of_false nofun nofun
  | error k' => simp only [Except.error.injEq]

/-- Reads of two registers agree where both are EMPTY, and where neither is and their contents are in the relation. -/
theorem source_agree {α β : Type} {R : α → β → Prop} {o : Option α} {o' : Option β} (h : o.isSome = o'.isSome)
    (hR : ∀ v v', o = some v → o' = some v' → R v v') : Agree R (source o) (source o') := by
  cases o with
  | none =>
    cases o' with
    | none => exact .error _
    | some v' => cases h
  | some v =>
    cases o' with
    | none => cases h
    | some v' => exact .ok (hR v v' rfl rfl)

theorem source_faultAlike {α β : Type} {o : Option α} {o' : Option β} (h : o.isSome = o'.isSome) :
    FaultAlike (source o) (source o') :=
  source_agree h fun _ _ _ _ => trivial

/-! ### Checks of tags (60_exceptions.md R405) -/

/-- Contents of one tag pass a check of tags together. -/
theorem ChecksTag.faultAlike {α β : Type} {x : Except FaultCode α} {y : Except FaultCode β} {ts : List Tag}
    {q q' : Point} (hx : ChecksTag (ts.contains q.tag) x) (hy : ChecksTag (ts.contains q'.tag) y)
    (h : q.tag = q'.tag) : FaultAlike x y := by
  rw [h] at hx
  generalize ts.contains q'.tag = accepted at hx hy
  cases accepted with
  | true =>
    obtain ⟨⟨v, rfl⟩, ⟨w, rfl⟩⟩ := And.intro hx hy
    exact .ok trivial
  | false =>
    obtain rfl : x = .error .wrongType := hx
    obtain rfl : y = .error .wrongType := hy
    exact .error _

theorem asExt_faultAlike {q q' : Point} (h : q.tag = q'.tag) : FaultAlike q.asExt q'.asExt :=
  (asExt_checksTag q).faultAlike (asExt_checksTag q') h

theorem asProj_faultAlike {q q' : Point} (h : q.tag = q'.tag) : FaultAlike q.asProj q'.asProj :=
  (asProj_checksTag q).faultAlike (asProj_checksTag q') h

theorem asCompl_faultAlike {q q' : Point} (h : q.tag = q'.tag) : FaultAlike q.asCompl q'.asCompl :=
  (asCompl_checksTag q).faultAlike (asCompl_checksTag q') h

theorem select_faultAlike {q q' r r' : Point} (hq : q.tag = q'.tag) (hr : r.tag = r'.tag) (k k' : Bool) :
    FaultAlike (q.select r k) (q'.select r' k') := by
  rw [select_eq, select_eq, hq, hr]
  split
  · exact .ok trivial
  · exact .error _

/-! ### Sources of states of one shape -/

/-- The tag a tag code stands for, none for the code of EMPTY (10_state.md R36). -/
def tagOfCode (c : BitVec 3) : Option Tag :=
  match c.toNat with
  | 1 => some .ext
  | 2 => some .proj
  | 3 => some .compl
  | 4 => some .pniels
  | 5 => some .aniels
  | _ => none

theorem tagOfCode_tagCode (o : Option Point) : tagOfCode (tagCode o) = o.map Point.tag := by
  cases o with
  | none => rfl
  | some q => cases q <;> rfl

/-- What two lists show alike, they show alike at every position. -/
theorem getD_alike {α β : Type} {f : α → β} {l l' : List α} (h : l.map f = l'.map f) (d : α) (n : Nat) :
    f (l.getD n d) = f (l'.getD n d) :=
  calc f (l.getD n d) = (l.map f).getD n (f d) := (List.getD_map ..).symm
    _ = (l'.map f).getD n (f d) := by rw [h]
    _ = f (l'.getD n d) := List.getD_map ..

/-- Two states of one shape, field by field. -/
structure SameShape (s s' : State) : Prop where
  params : s.params = s'.params
  fields : s.F.map Option.isSome = s'.F.map Option.isSome
  scalars : s.S.map Option.isSome = s'.S.map Option.isSome
  points : s.P.map tagCode = s'.P.map tagCode
  choices : s.C.map Option.isSome = s'.C.map Option.isSome
  digits : s.DG.map Option.isSome = s'.DG.map Option.isSome
  pairs : s.msm.length = s'.msm.length

theorem sameShape_of_shape_eq {s s' : State} (h : s.shape = s'.shape) : SameShape s s' := by
  simp only [State.shape, Prod.mk.injEq] at h
  obtain ⟨hparams, hF, hS, hP, hC, hDG, hmsm⟩ := h
  exact ⟨hparams, hF, hS, hP, hC, hDG, hmsm⟩

namespace SameShape
variable {s s' : State} (h : SameShape s s') (n m : RegNo)
include h

theorem srcF : FaultAlike (s.srcF n) (s'.srcF n) := source_faultAlike (getD_alike h.fields none n.toNat)
theorem srcS : FaultAlike (s.srcS n) (s'.srcS n) := source_faultAlike (getD_alike h.scalars none n.toNat)
theorem srcC : FaultAlike (s.srcC n) (s'.srcC n) := source_faultAlike (getD_alike h.choices none n.toNat)
theorem srcDG : FaultAlike (s.srcDG n) (s'.srcDG n) := source_faultAlike (getD_alike h.digits none n.toNat)

/-- A point source is EMPTY in both states, or its contents have one tag. -/
theorem srcP : Agree (fun q q' => q.tag = q'.tag) (s.srcP n) (s'.srcP n) := by
  have htag : (s.readP n).map Point.tag = (s'.readP n).map Point.tag := by
    rw [← tagOfCode_tagCode, ← tagOfCode_tagCode, State.readP, State.readP, getD_alike h.points]
  refine source_agree ?_ fun q q' hq hq' => ?_
  · simpa only [Option.isSome_map] using congrArg Option.isSome htag
  · rw [hq, hq'] at htag
    exact Option.some.inj htag

/-- Two point sources, the first an `EXT` one, the second by its own check. -/
theorem twoPoints {α : Type} {ts : List Tag} {check : Point → Ext → Except FaultCode α}
    (hc : ∀ r e, ChecksTag (ts.contains (Point.tag r)) (check r e)) (k : Ext → α → List Write) :
    FaultAlike
      (do let q ← s.srcP n; let r ← s.srcP m; let e ← q.asExt; let t ← check r e; return k e t)
      (do let q ← s'.srcP n; let r ← s'.srcP m; let e ← q.asExt; let t ← check r e; return k e t) :=
  (h.srcP n).bind fun _ _ hq => (h.srcP m).bind fun r r' hr => (asExt_faultAlike hq).bind fun e e' _ =>
    ((hc r e).faultAlike (hc r' e') hr).bind fun _ _ _ => .ok trivial

end SameShape

/-! ### Commands on states of one shape -/

/-- Every command but MTOE makes its writes from both states, or takes one fault from both. -/
theorem writes_faultAlike {s s' : State} (h : SameShape s s') (i : Instr) (hi : ∀ d a imm, i ≠ .mtoe d a imm) :
    FaultAlike (writes i s) (writes i s') := by
  cases i with
  | nop | chSet | feLd | feConst | scLd | scLdw | ptIdent | ptBase | ptDecomp | msmClr => exact .ok trivial
  | chNot => exact (h.srcC _).bind fun _ _ _ => .ok trivial
  | dgSt => exact (h.srcDG _).bind fun _ _ _ => .ok trivial
  | chAnd | chOr | chXor => exact (h.srcC _).bind fun _ _ _ => (h.srcC _).bind fun _ _ _ => .ok trivial
  | feSt | feMov | feNeg | feSq | feSq2 | fePow2k | feInv | fePowp58 | fePow22501 | feRed | feIsneg | feIszero | ell2 =>
    exact (h.srcF _).bind fun _ _ _ => .ok trivial
  | feAdd | feSub | feMul | feSqrtri | feEq =>
    exact (h.srcF _).bind fun _ _ _ => (h.srcF _).bind fun _ _ _ => .ok trivial
  | feCsel =>
    exact (h.srcF _).bind fun _ _ _ => (h.srcF _).bind fun _ _ _ => (h.srcC _).bind fun _ _ _ => .ok trivial
  | feCneg => exact (h.srcC _).bind fun _ _ _ => (h.srcF _).bind fun _ _ _ => .ok trivial
  | feCassign =>
    exact (h.srcF _).bind fun _ _ _ => (h.srcC _).bind fun _ _ _ => (h.srcF _).bind fun _ _ _ => .ok trivial
  | scSt | scMov | scNeg | scRed | scIscanon | scTomont | scFrommont | scRadix16 | scRadix2w | scNaf =>
    exact (h.srcS _).bind fun _ _ _ => .ok trivial
  | scAdd | scSub | scMul | scMmul => exact (h.srcS _).bind fun _ _ _ => (h.srcS _).bind fun _ _ _ => .ok trivial
  | ptMov => exact (h.srcP _).bind fun _ _ _ => .ok trivial
  | ptComp | ptE2p | ptE2pn | ptE2an | ptIssmall | ptIsident | ptMulcof | ptEdbl =>
    exact (h.srcP _).bind fun _ _ hq => (asExt_faultAlike hq).bind fun _ _ _ => .ok trivial
  | ptP2e | ptDbl => exact (h.srcP _).bind fun _ _ hq => (asProj_faultAlike hq).bind fun _ _ _ => .ok trivial
  | ptC2p | ptC2e => exact (h.srcP _).bind fun _ _ hq => (asCompl_faultAlike hq).bind fun _ _ _ => .ok trivial
  | ptEq | ptEadd | ptEsub => exact h.twoPoints _ _ (fun r _ => asExt_checksTag r) _
  | ptAdd d a b => exact h.twoPoints a b addTo_checksTag fun _ t => [.p d (some (.compl t))]
  | ptSub d a b => exact h.twoPoints a b subFrom_checksTag fun _ t => [.p d (some (.compl t))]
  | ptNeg =>
    exact (h.srcP _).bind fun q q' hq =>
      ((negate_checksTag q).faultAlike (negate_checksTag q') hq).bind fun _ _ _ => .ok trivial
  | ptCsel =>
    exact (h.srcP _).bind fun _ _ hq => (h.srcP _).bind fun _ _ hr =>
      (h.srcC _).bind fun k k' _ => (select_faultAlike hq hr k k').bind fun _ _ _ => .ok trivial
  | ptCneg =>
    exact (h.srcC _).bind fun k k' _ => (h.srcP _).bind fun q q' hq =>
      ((condNegate_checksTag q k).faultAlike (condNegate_checksTag q' k') hq).bind fun _ _ _ => .ok trivial
  | ptCassign =>
    exact (h.srcP _).bind fun _ _ hr => (h.srcC _).bind fun k k' _ =>
      (h.srcP _).bind fun _ _ hq => (select_faultAlike hq hr k k').bind fun _ _ _ => .ok trivial
  | ptSmul =>
    exact (h.srcP _).bind fun _ _ hq => (h.srcS _).bind fun _ _ _ =>
      (asExt_faultAlike hq).bind fun _ _ _ => .ok trivial
  | ptDsmb =>
    exact (h.srcS _).bind fun _ _ _ => (h.srcP _).bind fun _ _ hq =>
      (h.srcS _).bind fun _ _ _ => (asExt_faultAlike hq).bind fun _ _ _ => .ok trivial
  | msmPush =>
    refine (h.srcS _).bind fun _ _ _ => (h.srcP _).bind fun _ _ hq =>
      (asExt_faultAlike hq).bind fun _ _ _ => ?_
    rw [h.params, h.pairs]
    split
    · exact .error _
    · exact .ok trivial
  | msmRun =>
    rw [writes, writes, h.pairs]
    split
    · exact .error _
    · exact .ok trivial
  | mtoe d a imm => exact absurd rfl (hi d a imm)

/-- A command takes a fault exactly when its checks find it, or when they find none and its writes cannot be made for
it (40_system_choice.md R130). -/
theorem exec_eq_takeFault_iff_check_or_writes (i : Instr) (s : State) (k : FaultCode) :
    exec i s = .next (s.takeFault k (encode i)) ↔
      i.check s.params = some k ∨ i.check s.params = none ∧ writes i s = .error k := by
  cases hc : i.check s.params with
  | none =>
    simp only [exec_eq_takeFault_iff ((check_eq_none_iff_wellFormed _ _).1 hc), reduceCtorEq, true_and, false_or]
  | some k' =>
    rw [exec_eq, command_of_check hc]
    simp only [Option.some.injEq, reduceCtorEq, false_and, or_false]
    exact ⟨fun ht => code_injective (congrArg State.faultcode (Host.Outcome.next.inj ht)), fun hk => hk ▸ rfl⟩

/-! ### The statements -/

/-- Settles O13: the checks see the parameters alone, the writes fault alike. -/
theorem faultsIgnoreData : Obligations.FaultsIgnoreData := by
  unfold Obligations.FaultsIgnoreData
  intro i s s' k hi h
  have hshape := sameShape_of_shape_eq h
  rw [exec_eq_takeFault_iff_check_or_writes, exec_eq_takeFault_iff_check_or_writes, hshape.params,
    (writes_faultAlike hshape i hi).error_iff]

/-- While the reset input is asserted every access is refused, before anything else is looked at (R431). -/
theorem busAccess_duringReset {s : State} (hr : s.resetIn = true) (offset : Nat) (act : Result) :
    busAccess s offset act = .refused .accessDuringReset := if_pos hr

/-- Settles O56: the event of the reset input, and every other one while the level is held. -/
theorem hardReset : Obligations.HardReset := by
  unfold Obligations.HardReset
  refine ⟨fun s es hb => step_of_bus hb, fun s es hb => step_of_bus hb, fun s e es hb hr he => ?_⟩
  rw [step_of_bus hb]
  cases e with
  | read | write => exact busAccess_duringReset (s := { s with bus := es }) hr _ _
  | otherWidth => exact if_pos hr
  | resetInput level => exact absurd rfl (he level)

end Sys2Proof.Machine
